-- ==== Sys2Proof/Word.lean ====
section
/-! DEFINITION. The word types of the machine: bytes, 16-bit words, register numbers and 12-bit addresses
(spec/00_scope.md R6, spec/30_encoding.md R83 to R86). -/

namespace Sys2Proof

/-- An 8-bit value: a byte of memory, a general register, a timer (R22, R34, R50). -/
abbrev Byte := BitVec 8

/-- A 16-bit value: an instruction word, `I`, `PC`, a call-stack entry (R26, R27, R30, R80). -/
abbrev Word := BitVec 16

/-- A 4-bit value: a register index X or Y, or the immediate N (R83 to R85). -/
abbrev Nibble := BitVec 4

/-- A 12-bit immediate address NNN (R86). -/
abbrev Addr := BitVec 12

end Sys2Proof
end

