-- ==== Sys2Proof/Syntax.lean ====
section
/-! DEFINITION. The instruction set: one constructor per row of spec/opcode_table.json, with the operand fields X, Y,
N, NN, NNN of spec/30_encoding.md R81 to R86. -/

namespace Sys2Proof

/-- The 35 instructions of R90, in the table's order. -/
inductive Instr where
  /-- 0NNN `SYS NNN` (R130) -/
  | sys (nnn : Addr)
  /-- 00E0 `CLS` (R110) -/
  | cls
  /-- 00EE `RET` (R131) -/
  | ret
  /-- 1NNN `JP NNN` (R132) -/
  | jp (nnn : Addr)
  /-- 2NNN `CALL NNN` (R133) -/
  | call (nnn : Addr)
  /-- 3XNN `SE VX, NN` (R180) -/
  | seVxNn (x : Nibble) (nn : Byte)
  /-- 4XNN `SNE VX, NN` (R181) -/
  | sneVxNn (x : Nibble) (nn : Byte)
  /-- 5XY0 `SE VX, VY` (R182) -/
  | seVxVy (x y : Nibble)
  /-- 6XNN `LD VX, NN` (R150) -/
  | ldVxNn (x : Nibble) (nn : Byte)
  /-- 7XNN `ADD VX, NN` (R151) -/
  | addVxNn (x : Nibble) (nn : Byte)
  /-- 8XY0 `LD VX, VY` (R152) -/
  | ldVxVy (x y : Nibble)
  /-- 8XY1 `OR VX, VY` (R153) -/
  | or (x y : Nibble)
  /-- 8XY2 `AND VX, VY` (R154) -/
  | and (x y : Nibble)
  /-- 8XY3 `XOR VX, VY` (R155) -/
  | xor (x y : Nibble)
  /-- 8XY4 `ADD VX, VY` (R156) -/
  | addVxVy (x y : Nibble)
  /-- 8XY5 `SUB VX, VY` (R157) -/
  | sub (x y : Nibble)
  /-- 8XY6 `SHR VX, VY` (R158) -/
  | shr (x y : Nibble)
  /-- 8XY7 `SUBN VX, VY` (R159) -/
  | subn (x y : Nibble)
  /-- 8XYE `SHL VX, VY` (R160) -/
  | shl (x y : Nibble)
  /-- 9XY0 `SNE VX, VY` (R183) -/
  | sneVxVy (x y : Nibble)
  /-- ANNN `LD I, NNN` (R190) -/
  | ldINnn (nnn : Addr)
  /-- BNNN `JP V0, NNN` (R134) -/
  | jpV0 (nnn : Addr)
  /-- CXNN `RND VX, NN` (R161) -/
  | rnd (x : Nibble) (nn : Byte)
  /-- DXYN `DRW VX, VY, N` (R111) -/
  | drw (x y n : Nibble)
  /-- EX9E `SKP VX` (R213) -/
  | skp (x : Nibble)
  /-- EXA1 `SKNP VX` (R214) -/
  | sknp (x : Nibble)
  /-- FX07 `LD VX, DT` (R210) -/
  | ldVxDt (x : Nibble)
  /-- FX0A `LD VX, K` (R215) -/
  | ldVxK (x : Nibble)
  /-- FX15 `LD DT, VX` (R211) -/
  | ldDtVx (x : Nibble)
  /-- FX18 `LD ST, VX` (R212) -/
  | ldStVx (x : Nibble)
  /-- FX1E `ADD I, VX` (R191) -/
  | addIVx (x : Nibble)
  /-- FX29 `LD F, VX` (R192) -/
  | ldFVx (x : Nibble)
  /-- FX33 `LD B, VX` (R194) -/
  | ldBVx (x : Nibble)
  /-- FX55 `LD [I], VX` (R195) -/
  | ldMiVx (x : Nibble)
  /-- FX65 `LD VX, [I]` (R196) -/
  | ldVxMi (x : Nibble)
  deriving DecidableEq, Repr

end Sys2Proof
end

