-- ==== Sys2Proof/Decode.lean ====
section
/-! DEFINITION. Decoding: the fields of a word (spec/30_encoding.md R81 to R86), the opcode map by class (R91), and the
reading of bytes as big-endian words (spec/20_memory.md R55); then the encoder, from the patterns of R90. -/

namespace Sys2Proof

/-! ## The fields of a word -/

/-- `word[15:12]` (R82). -/
def opClass (w : Word) : Nibble := w.extractLsb' 12 4

/-- `X = word[11:8]` (R83). -/
def fieldX (w : Word) : Nibble := w.extractLsb' 8 4

/-- `Y = word[7:4]` (R84). -/
def fieldY (w : Word) : Nibble := w.extractLsb' 4 4

/-- `N = word[3:0]` (R85). -/
def fieldN (w : Word) : Nibble := w.extractLsb' 0 4

/-- `NN = word[7:0]` (R86). -/
def fieldNN (w : Word) : Byte := w.extractLsb' 0 8

/-- `NNN = word[11:0]` (R86). -/
def fieldNNN (w : Word) : Addr := w.extractLsb' 0 12

/-! ## Decoding a word -/

/-- What the decoder answers (R89): one of the 35 instructions, or the word it refuses, by name. -/
inductive Decoded where
  /-- `Op(mnemonic, fields)` -/
  | op (i : Instr)
  /-- `Unknown(word)` -/
  | unknown (word : Word)
  deriving DecidableEq, Repr

/-- Class 0x0: two exact words take precedence over SYS (R91, R92). -/
def decodeClass0 (w : Word) : Decoded :=
  if w = 0x00E0#16 then .op .cls
  else if w = 0x00EE#16 then .op .ret
  else .op (.sys (fieldNNN w))

/-- Class 0x8: the operation is selected by N alone (R91, R93). -/
def decodeClass8 (w : Word) : Decoded :=
  let x := fieldX w
  let y := fieldY w
  let n := fieldN w
  if n = 0x0#4 then .op (.ldVxVy x y)
  else if n = 0x1#4 then .op (.or x y)
  else if n = 0x2#4 then .op (.and x y)
  else if n = 0x3#4 then .op (.xor x y)
  else if n = 0x4#4 then .op (.addVxVy x y)
  else if n = 0x5#4 then .op (.sub x y)
  else if n = 0x6#4 then .op (.shr x y)
  else if n = 0x7#4 then .op (.subn x y)
  else if n = 0xE#4 then .op (.shl x y)
  else .unknown w

/-- Class 0xE: the operation is selected by NN alone (R91, R94). -/
def decodeClassE (w : Word) : Decoded :=
  let x := fieldX w
  let nn := fieldNN w
  if nn = 0x9E#8 then .op (.skp x)
  else if nn = 0xA1#8 then .op (.sknp x)
  else .unknown w

/-- Class 0xF: the operation is selected by NN alone (R91, R94). -/
def decodeClassF (w : Word) : Decoded :=
  let x := fieldX w
  let nn := fieldNN w
  if nn = 0x07#8 then .op (.ldVxDt x)
  else if nn = 0x0A#8 then .op (.ldVxK x)
  else if nn = 0x15#8 then .op (.ldDtVx x)
  else if nn = 0x18#8 then .op (.ldStVx x)
  else if nn = 0x1E#8 then .op (.addIVx x)
  else if nn = 0x29#8 then .op (.ldFVx x)
  else if nn = 0x33#8 then .op (.ldBVx x)
  else if nn = 0x55#8 then .op (.ldMiVx x)
  else if nn = 0x65#8 then .op (.ldVxMi x)
  else .unknown w

/-- The opcode map of R91. Decoding is a pure, total function of the word (R88) and strict in every fixed nibble (R96). -/
def decode (w : Word) : Decoded :=
  let c := opClass w
  let x := fieldX w
  let y := fieldY w
  let n := fieldN w
  let nn := fieldNN w
  let nnn := fieldNNN w
  if c = 0x0#4 then decodeClass0 w
  else if c = 0x1#4 then .op (.jp nnn)
  else if c = 0x2#4 then .op (.call nnn)
  else if c = 0x3#4 then .op (.seVxNn x nn)
  else if c = 0x4#4 then .op (.sneVxNn x nn)
  else if c = 0x5#4 then (if n = 0x0#4 then .op (.seVxVy x y) else .unknown w)
  else if c = 0x6#4 then .op (.ldVxNn x nn)
  else if c = 0x7#4 then .op (.addVxNn x nn)
  else if c = 0x8#4 then decodeClass8 w
  else if c = 0x9#4 then (if n = 0x0#4 then .op (.sneVxVy x y) else .unknown w)
  else if c = 0xA#4 then .op (.ldINnn nnn)
  else if c = 0xB#4 then .op (.jpV0 nnn)
  else if c = 0xC#4 then .op (.rnd x nn)
  else if c = 0xD#4 then .op (.drw x y n)
  else if c = 0xE#4 then decodeClassE w
  else decodeClassF w

/-! ## Decoding bytes -/

/-- The word of two bytes: the byte at the lower address is bits 15:8 (R55). -/
def wordOfBytes (hi lo : Byte) : Word := hi ++ lo

/-- The byte of a word that lies at the lower address (R55). -/
def highByte (w : Word) : Byte := w.extractLsb' 8 8

/-- The byte of a word that lies at the higher address (R55). -/
def lowByte (w : Word) : Byte := w.extractLsb' 0 8

/-- What the decoder answers on a list of bytes: an instruction with the bytes after it, a refused word with the bytes
after it (R98), or fewer than the two bytes every instruction has (R80). -/
inductive DecodedBytes where
  | op (i : Instr) (rest : List Byte)
  | unknown (word : Word) (rest : List Byte)
  | tooShort
  deriving DecidableEq, Repr

/-- Decoding of bytes: it always consumes exactly two (R80). -/
def decodeBytes : List Byte → DecodedBytes
  | hi :: lo :: rest =>
    match decode (wordOfBytes hi lo) with
    | .op i => .op i rest
    | .unknown w => .unknown w rest
  | [_] => .tooShort
  | [] => .tooShort

/-- The instruction the decoder reads from the bits `w` of a table row of `nbits` bits, laid out as memory holds
them. Every row has 16 bits (R80), and every bit at or above `nbits` is 0. -/
def decodeTableWord (nbits w : Nat) : Option Instr :=
  let word : Word := BitVec.ofNat 16 (w % 2 ^ nbits)
  match decodeBytes [highByte word, lowByte word] with
  | .op i _ => some i
  | .unknown _ _ => none
  | .tooShort => none

/-! ## Encoding -/

/-- A word of the shape class, NNN. -/
def packNNN (c : Nibble) (nnn : Addr) : Word := c ++ nnn

/-- A word of the shape class, X, NN. -/
def packXNN (c x : Nibble) (nn : Byte) : Word := c ++ (x ++ nn : Addr)

/-- A word of the shape class, X, Y, N. -/
def packXYN (c x y n : Nibble) : Word := c ++ (x ++ (y ++ n : Byte) : Addr)

/-- The word of an instruction, from the patterns of R90. -/
def encode : Instr → Word
  | .sys nnn => packNNN 0x0 nnn
  | .cls => 0x00E0#16
  | .ret => 0x00EE#16
  | .jp nnn => packNNN 0x1 nnn
  | .call nnn => packNNN 0x2 nnn
  | .seVxNn x nn => packXNN 0x3 x nn
  | .sneVxNn x nn => packXNN 0x4 x nn
  | .seVxVy x y => packXYN 0x5 x y 0x0
  | .ldVxNn x nn => packXNN 0x6 x nn
  | .addVxNn x nn => packXNN 0x7 x nn
  | .ldVxVy x y => packXYN 0x8 x y 0x0
  | .or x y => packXYN 0x8 x y 0x1
  | .and x y => packXYN 0x8 x y 0x2
  | .xor x y => packXYN 0x8 x y 0x3
  | .addVxVy x y => packXYN 0x8 x y 0x4
  | .sub x y => packXYN 0x8 x y 0x5
  | .shr x y => packXYN 0x8 x y 0x6
  | .subn x y => packXYN 0x8 x y 0x7
  | .shl x y => packXYN 0x8 x y 0xE
  | .sneVxVy x y => packXYN 0x9 x y 0x0
  | .ldINnn nnn => packNNN 0xA nnn
  | .jpV0 nnn => packNNN 0xB nnn
  | .rnd x nn => packXNN 0xC x nn
  | .drw x y n => packXYN 0xD x y n
  | .skp x => packXNN 0xE x 0x9E
  | .sknp x => packXNN 0xE x 0xA1
  | .ldVxDt x => packXNN 0xF x 0x07
  | .ldVxK x => packXNN 0xF x 0x0A
  | .ldDtVx x => packXNN 0xF x 0x15
  | .ldStVx x => packXNN 0xF x 0x18
  | .addIVx x => packXNN 0xF x 0x1E
  | .ldFVx x => packXNN 0xF x 0x29
  | .ldBVx x => packXNN 0xF x 0x33
  | .ldMiVx x => packXNN 0xF x 0x55
  | .ldVxMi x => packXNN 0xF x 0x65

/-- The bytes of an instruction as memory holds them (R55). -/
def encodeBytes (i : Instr) : List Byte := [highByte (encode i), lowByte (encode i)]

/-! ## The table's match and mask -/

/-- The `mask` of an instruction's row of spec/opcode_table.json: which bits the row fixes. -/
def Instr.mask : Instr → Word
  | .sys _ => 0xF000#16
  | .cls => 0xFFFF#16
  | .ret => 0xFFFF#16
  | .jp _ => 0xF000#16
  | .call _ => 0xF000#16
  | .seVxNn _ _ => 0xF000#16
  | .sneVxNn _ _ => 0xF000#16
  | .seVxVy _ _ => 0xF00F#16
  | .ldVxNn _ _ => 0xF000#16
  | .addVxNn _ _ => 0xF000#16
  | .ldVxVy _ _ => 0xF00F#16
  | .or _ _ => 0xF00F#16
  | .and _ _ => 0xF00F#16
  | .xor _ _ => 0xF00F#16
  | .addVxVy _ _ => 0xF00F#16
  | .sub _ _ => 0xF00F#16
  | .shr _ _ => 0xF00F#16
  | .subn _ _ => 0xF00F#16
  | .shl _ _ => 0xF00F#16
  | .sneVxVy _ _ => 0xF00F#16
  | .ldINnn _ => 0xF000#16
  | .jpV0 _ => 0xF000#16
  | .rnd _ _ => 0xF000#16
  | .drw _ _ _ => 0xF000#16
  | .skp _ => 0xF0FF#16
  | .sknp _ => 0xF0FF#16
  | .ldVxDt _ => 0xF0FF#16
  | .ldVxK _ => 0xF0FF#16
  | .ldDtVx _ => 0xF0FF#16
  | .ldStVx _ => 0xF0FF#16
  | .addIVx _ => 0xF0FF#16
  | .ldFVx _ => 0xF0FF#16
  | .ldBVx _ => 0xF0FF#16
  | .ldMiVx _ => 0xF0FF#16
  | .ldVxMi _ => 0xF0FF#16

/-- The `match` of an instruction's row of spec/opcode_table.json: the values of the bits the row fixes. -/
def Instr.pattern : Instr → Word
  | .sys _ => 0x0000#16
  | .cls => 0x00E0#16
  | .ret => 0x00EE#16
  | .jp _ => 0x1000#16
  | .call _ => 0x2000#16
  | .seVxNn _ _ => 0x3000#16
  | .sneVxNn _ _ => 0x4000#16
  | .seVxVy _ _ => 0x5000#16
  | .ldVxNn _ _ => 0x6000#16
  | .addVxNn _ _ => 0x7000#16
  | .ldVxVy _ _ => 0x8000#16
  | .or _ _ => 0x8001#16
  | .and _ _ => 0x8002#16
  | .xor _ _ => 0x8003#16
  | .addVxVy _ _ => 0x8004#16
  | .sub _ _ => 0x8005#16
  | .shr _ _ => 0x8006#16
  | .subn _ _ => 0x8007#16
  | .shl _ _ => 0x800E#16
  | .sneVxVy _ _ => 0x9000#16
  | .ldINnn _ => 0xA000#16
  | .jpV0 _ => 0xB000#16
  | .rnd _ _ => 0xC000#16
  | .drw _ _ _ => 0xD000#16
  | .skp _ => 0xE09E#16
  | .sknp _ => 0xE0A1#16
  | .ldVxDt _ => 0xF007#16
  | .ldVxK _ => 0xF00A#16
  | .ldDtVx _ => 0xF015#16
  | .ldStVx _ => 0xF018#16
  | .addIVx _ => 0xF01E#16
  | .ldFVx _ => 0xF029#16
  | .ldBVx _ => 0xF033#16
  | .ldMiVx _ => 0xF055#16
  | .ldVxMi _ => 0xF065#16

end Sys2Proof
end

