-- ==== Sys2Proof/Config.lean ====
section
/-! DEFINITION. What an implementation fixes: the fixed parameters of spec/00_scope.md R6, the parameters R7 lets a
model take as arguments (with FONT, spec/20_memory.md R61), their domains and defaults, and the free value of the
RAND oracle. -/

namespace Sys2Proof

/-- `MEM_SIZE`: the number of bytes of memory (R6, R50). -/
def memSize : Nat := 4096

/-- The highest address of memory, 0xFFF (R50, R53). -/
def maxAddr : Nat := 0xFFF

/-- `LOAD_OFFSET`: where the program is loaded and where execution starts (R6, R261). -/
def loadOffset : Nat := 0x200

/-- `NUM_KEYS`: the number of keys (R6, R37). -/
def numKeys : Nat := 16

/-- `UNKNOWN_OPCODE_POLICY` (R7, R236). -/
inductive UnknownOpcodePolicy where
  | halt
  | skip
  deriving DecidableEq, Repr

/-- `SYS_POLICY` (R7, R130). -/
inductive SysPolicy where
  | fault
  | nop
  deriving DecidableEq, Repr

/-- `DRAW_EDGE` (R7, R111, R113). -/
inductive DrawEdge where
  | wrap
  | clip
  deriving DecidableEq, Repr

/-- The parameters of R7, and the font table of R61. DESIGN CHOICE (log entry 1; safe): they stand in State as plain
data that no instruction writes, because `exec` and `step` take no further argument. -/
structure Params where
  /-- `STACK_DEPTH` -/
  stackDepth : Nat
  /-- `DISPLAY_W` -/
  displayW : Nat
  /-- `DISPLAY_H` -/
  displayH : Nat
  /-- `FONT_BASE` -/
  fontBase : Nat
  /-- `FONT`, 80 bytes (R61) -/
  font : List Byte
  /-- `UNKNOWN_OPCODE_POLICY` -/
  unknownOpcodePolicy : UnknownOpcodePolicy
  /-- `SYS_POLICY` -/
  sysPolicy : SysPolicy
  /-- `SHIFT_USES_VY` -/
  shiftUsesVY : Bool
  /-- `LOGIC_RESETS_VF` -/
  logicResetsVF : Bool
  /-- `LOADSTORE_INCREMENTS_I` -/
  loadStoreIncrementsI : Bool
  /-- `JUMP_OFFSET_USES_VX` -/
  jumpOffsetUsesVX : Bool
  /-- `ADD_INDEX_SETS_VF` -/
  addIndexSetsVF : Bool
  /-- `DRAW_EDGE` -/
  drawEdge : DrawEdge
  deriving DecidableEq, Repr

/-- The default FONT: 16 glyphs of 5 bytes, top row first (R61). -/
def Params.standardFont : List Byte :=
  [0xF0, 0x90, 0x90, 0x90, 0xF0,  0x20, 0x60, 0x20, 0x20, 0x70]
  ++ [0xF0, 0x10, 0xF0, 0x80, 0xF0,  0xF0, 0x10, 0xF0, 0x10, 0xF0]
  ++ [0x90, 0x90, 0xF0, 0x10, 0x10,  0xF0, 0x80, 0xF0, 0x10, 0xF0]
  ++ [0xF0, 0x80, 0xF0, 0x90, 0xF0,  0xF0, 0x10, 0x20, 0x40, 0x40]
  ++ [0xF0, 0x90, 0xF0, 0x90, 0xF0,  0xF0, 0x90, 0xF0, 0x10, 0xF0]
  ++ [0xF0, 0x90, 0xF0, 0x90, 0x90,  0xE0, 0x90, 0xE0, 0x90, 0xE0]
  ++ [0xF0, 0x80, 0x80, 0x80, 0xF0,  0xE0, 0x90, 0x90, 0x90, 0xE0]
  ++ [0xF0, 0x80, 0xF0, 0x80, 0xF0,  0xF0, 0x80, 0xF0, 0x80, 0x80]

/-- The defaults of R7 and R61. -/
def Params.standard : Params where
  stackDepth := 16
  displayW := 64
  displayH := 32
  fontBase := 0x000
  font := Params.standardFont
  unknownOpcodePolicy := .halt
  sysPolicy := .fault
  shiftUsesVY := false
  logicResetsVF := false
  loadStoreIncrementsI := false
  jumpOffsetUsesVX := false
  addIndexSetsVF := true
  drawEdge := .wrap

/-- The domains of R7 (the other parameters range over their whole types) and the size of FONT (R61). -/
abbrev Params.wf (p : Params) : Prop :=
  1 ≤ p.stackDepth ∧ 1 ≤ p.displayW ∧ 1 ≤ p.displayH ∧ p.fontBase + 80 ≤ loadOffset ∧ p.font.length = 80

/-- FREE VALUE (log entry 2; safe): the byte that the RAND oracle gives at its `k`-th draw. It has no body: nothing
constrains it and no law relates two draws of a machine (R7 RAND, R161, D28). DESIGN CHOICE (log entry 9; unsafe for a
claim that relates two instances): machine instances side by side (R244) draw from this one oracle, each at its own count
of draws; the spec does not say whether they share one. -/
opaque Config.randByte : Nat → Byte

end Sys2Proof
end

