-- ==== Sys2Proof/Machine/State.lean ====
section
/-! DEFINITION. The machine's state as plain data: the tuple of spec/10_state.md R20, the two arguments of the model that
R20 names beside it (parameters and the count of RAND draws), why a step or a host operation can stop, and reset. -/

namespace Sys2Proof.Machine

/-- The four error kinds of the block, in the order of their codes 1 to 4 (spec/60_exceptions.md R230). -/
inductive ErrorKind where
  /-- code 1: an `Unknown` word under `halt`, or SYS under `fault` -/
  | decodeError
  /-- code 2: CALL on a full stack -/
  | stackOverflow
  /-- code 3: RET on an empty stack -/
  | stackUnderflow
  /-- code 4: a fetch or an index-relative access beyond 0xFFF -/
  | memoryOutOfBounds
  deriving DecidableEq, Repr

/-- What an error records: its kind, the `PC` of the offending instruction and the raw word (R38, R232). -/
structure ErrorRecord where
  kind : ErrorKind
  pc : Word
  word : Word
  deriving DecidableEq, Repr

/-- A framebuffer cell: column `x` and row `y` (R35). -/
structure Pixel where
  x : Nat
  y : Nat
  deriving DecidableEq, Repr

/-- `FB` as the row-major rising list of its LIT cells; a cell that is not listed is unlit (R35, R36). -/
abbrev Framebuffer := List Pixel

/-- `MEM` as the rising list of the addresses whose byte is not 0x00; an address that is not listed reads 0x00, the reset
contents of R41 and R260. -/
abbrev Memory := List Host.Cell

/-- The architectural state (R20), `params` and `draws` being the model's own fields (log entries 1 and 2). -/
structure State where
  /-- the parameters of spec/00_scope.md R7, fixed before `load` and written by nothing -/
  params : Params
  /-- `MEM` (R50) -/
  mem : Memory
  /-- `V[0x0]` to `V[0xF]` (R22) -/
  v : Vector Byte 16
  /-- `I` (R26) -/
  i : Word
  /-- `PC` (R27) -/
  pc : Word
  /-- `SP`, the number of entries the call stack holds (R30) -/
  sp : Nat
  /-- `STACK[0]` to `STACK[STACK_DEPTH - 1]` (R30) -/
  stack : List Word
  /-- `DT` (R34) -/
  dt : Byte
  /-- `ST` (R34) -/
  st : Byte
  /-- `FB` (R35) -/
  fb : Framebuffer
  /-- `KEY[0x0]` to `KEY[0xF]` (R37) -/
  key : Vector Bool 16
  /-- `FAULT`: `none` or the latched error (R38) -/
  fault : Option ErrorRecord
  /-- how many draws of the RAND oracle were taken (R161) -/
  draws : Nat
  deriving DecidableEq, Repr

/-- Why a step stops without a next state: there is no such reason, so the type has no constructor. Every error of the
block is a state of the block, with `FAULT` set (R233), and a step on a faulted machine changes nothing (R235). -/
inductive Fault where
  deriving DecidableEq, Repr

/-- Why an operation is refused. The four reasons beside `notModelled` are the host's operations outside their contract,
to which the spec gives no move; no instruction is refused. -/
inductive Refusal where
  /-- an instruction without a meaning: raised by no arm of `exec`; safe -/
  | notModelled (mnemonic : String)
  /-- a second `load`, or a `load` after a step (R264), raised by `load`; safe -/
  | loadOutOfOrder
  /-- `load` with more than 3584 bytes (R263), raised by `load`; safe -/
  | programTooLong
  /-- `set_key_state` with an index outside 0..15 (R249), raised by `setKeyState`; safe -/
  | noSuchKey
  /-- construction with parameters outside the domains of R7, raised by `State.construct`; safe -/
  | badParameters
  deriving DecidableEq, Repr

/-- The outcomes of a step, a meaning or a host operation. -/
abbrev Result := Host.Outcome State Fault Refusal

/-- The machine right after reset with parameters `p`: every component at its value of R41 and R260, before `load`. -/
def State.resetWith (p : Params) : State where
  params := p
  mem := []
  v := Vector.replicate 16 0#8
  i := 0#16
  pc := 0x200#16
  sp := 0
  stack := List.replicate p.stackDepth 0#16
  dt := 0#8
  st := 0#8
  fb := []
  key := Vector.replicate 16 false
  fault := none
  draws := 0

/-- The machine right after reset with the default parameters (R7, R41, R260). -/
def State.reset : State := State.resetWith Params.standard

end Sys2Proof.Machine
end

