-- ==== Sys2Proof/Machine/Framebuffer.lean ====
section
/-! DEFINITION. Operations on the framebuffer as data (spec/10_state.md R35, R36; spec/40_display.md R111 to R114):
reading and toggling a cell, the cells a sprite covers, and drawing them in order with the collision test. -/

namespace Sys2Proof.Machine

/-- Row-major order of cells: the order of the list of lit cells. -/
abbrev Pixel.before (p q : Pixel) : Prop := p.y < q.y ∨ (p.y = q.y ∧ p.x < q.x)

/-- `FB[x][y]`: whether a cell is lit (R35). -/
def Framebuffer.lit (fb : Framebuffer) (p : Pixel) : Bool := decide (p ∈ fb)

/-- `FB[px][py] <- not FB[px][py]` (R111). -/
def Framebuffer.toggle (p : Pixel) : Framebuffer → Framebuffer
  | [] => [p]
  | q :: fb =>
    if p.before q then p :: q :: fb
    else if p = q then fb
    else q :: Framebuffer.toggle p fb

/-- Bit `7 - c` of a sprite byte: the pixel of column `c`, bit 7 leftmost (R112). -/
def spriteBit (b : Byte) (c : Nat) : Bool := b.getLsbD (7 - c)

/-- Where column `c` of row `r` of a sprite at `(x0, y0)` lands: wrapped (R111), or dropped beyond the edge (R113). -/
def spriteCell (p : Params) (x0 y0 r c : Nat) : Option Pixel :=
  match p.drawEdge with
  | .wrap => some ⟨(x0 + c) % p.displayW, (y0 + r) % p.displayH⟩
  | .clip => if x0 + c < p.displayW ∧ y0 + r < p.displayH then some ⟨x0 + c, y0 + r⟩ else none

/-- The cells that byte `b`, row `r` of the sprite, toggles, columns ascending (R111). -/
def rowCells (p : Params) (x0 y0 r : Nat) (b : Byte) : List Pixel :=
  (List.range 8).filterMap (fun c => if spriteBit b c then spriteCell p x0 y0 r c else none)

/-- The cells that the bytes of a sprite toggle, rows ascending from row `r` (R111). -/
def spriteCells (p : Params) (x0 y0 : Nat) : Nat → List Byte → List Pixel
  | _, [] => []
  | r, b :: bs => rowCells p x0 y0 r b ++ spriteCells p x0 y0 (r + 1) bs

/-- Toggles cells in order; the collision flag is set when a toggle turns a lit cell unlit (R111, R114). -/
def drawCells (fb : Framebuffer) (collision : Bool) : List Pixel → Framebuffer × Bool
  | [] => (fb, collision)
  | p :: ps => drawCells (Framebuffer.toggle p fb) (collision || Framebuffer.lit fb p) ps

/-- The whole grid, row by row from row 0 and column 0, as booleans (R35, R248). -/
def Framebuffer.grid (p : Params) (fb : Framebuffer) : List (List Bool) :=
  (List.range p.displayH).map (fun y => (List.range p.displayW).map (fun x => Framebuffer.lit fb ⟨x, y⟩))

/-- The canonical form: lit cells listed once each in row-major order, all of them cells of the grid (R35). -/
abbrev Framebuffer.wf (p : Params) (fb : Framebuffer) : Prop :=
  fb.Pairwise Pixel.before ∧ ∀ c ∈ fb, c.x < p.displayW ∧ c.y < p.displayH

end Sys2Proof.Machine
end

