-- ==== Sys2Proof/Machine/Memory.lean ====
section
/-! DEFINITION. Operations on memory as data (spec/20_memory.md): reading and writing one byte, sequences of bytes in
ascending address order (R59, R62), and the canonical form of the list. -/

namespace Sys2Proof.Machine

/-- `MemRead(addr, 1)` (R11): an address that is not listed reads 0x00 (R41, R260). -/
def Memory.read : Memory → Nat → Byte
  | [], _ => 0#8
  | (k, w) :: m, a => if k = a then w else Memory.read m a

/-- `MemWrite(addr, 1, v)` (R11), keeping the canonical form: writing 0x00 removes the entry. -/
def Memory.write : Memory → Nat → Byte → Memory
  | [], a, v => if v = 0#8 then [] else [(a, v)]
  | (k, w) :: m, a, v =>
    if a < k then (if v = 0#8 then (k, w) :: m else (a, v) :: (k, w) :: m)
    else if a = k then (if v = 0#8 then m else (a, v) :: m)
    else (k, w) :: Memory.write m a v

/-- Writes bytes at `a`, `a + 1`, ... in ascending order (R62). -/
def Memory.writeBytes (m : Memory) (a : Nat) : List Byte → Memory
  | [] => m
  | b :: bs => Memory.writeBytes (Memory.write m a b) (a + 1) bs

/-- The `n` bytes at `a`, `a + 1`, ... in ascending order (R62). -/
def Memory.readBytes (m : Memory) (a : Nat) : Nat → List Byte
  | 0 => []
  | n + 1 => Memory.read m a :: Memory.readBytes m (a + 1) n

/-- The canonical form: addresses strictly rising and inside `MEM` (R50), and no listed byte equal to 0x00. -/
abbrev Memory.wf (m : Memory) : Prop :=
  m.Pairwise (fun c d => c.1 < d.1) ∧ ∀ c ∈ m, c.1 < memSize ∧ c.2 ≠ 0#8

end Sys2Proof.Machine
end

