-- ==== Sys2Proof/Machine/Ops.lean ====
section
/-! DEFINITION. The named operations over the state: register and memory accessors, the advance and the skip of PC
(spec/10_state.md R28), raising an error (spec/60_exceptions.md R233), and the call stack (spec/10_state.md R31, R32). -/

namespace Sys2Proof.Machine

/-! ## One field at a time -/

/-- `V[x]` (R22). -/
def State.getV (s : State) (x : Nibble) : Byte := s.v[x.toNat]'(x.isLt)

/-- `V[x] <- b` (R22): the one operation that writes one general register. -/
def State.setV (s : State) (x : Nibble) (b : Byte) : State := { s with v := s.v.set x.toNat b x.isLt }

/-- Replaces all the general registers. -/
def State.setRegs (s : State) (v : Vector Byte 16) : State := { s with v := v }

/-- `I <- w` (R26). -/
def State.setI (s : State) (w : Word) : State := { s with i := w }

/-- `PC <- w` (R27). -/
def State.setPC (s : State) (w : Word) : State := { s with pc := w }

/-- Replaces `MEM`. -/
def State.setMem (s : State) (m : Memory) : State := { s with mem := m }

/-- `DT <- b` (R34). -/
def State.setDT (s : State) (b : Byte) : State := { s with dt := b }

/-- `ST <- b` (R34). -/
def State.setST (s : State) (b : Byte) : State := { s with st := b }

/-- Replaces `FB` (R35). -/
def State.setFB (s : State) (fb : Framebuffer) : State := { s with fb := fb }

/-- Replaces `KEY` (R37). -/
def State.setKeys (s : State) (k : Vector Bool 16) : State := { s with key := k }

/-- Sets the `FAULT` latch (R38). -/
def State.setFault (s : State) (f : Option ErrorRecord) : State := { s with fault := f }

/-- Counts one draw of the RAND oracle (R161). -/
def State.countDraw (s : State) : State := { s with draws := s.draws + 1 }

/-! ## The program counter -/

/-- `PC <- pc + 2` (R28). -/
def State.advance (s : State) : State := s.setPC (s.pc + 2#16)

/-- `PC <- c ? pc + 4 : pc + 2`: the skip common to the conditional and the key skips (R28, R184). -/
def State.skipIf (s : State) (c : Bool) : State := s.setPC (if c then s.pc + 4#16 else s.pc + 2#16)

/-! ## Raising an error -/

/-- The code of an error kind, 1 to 4 (R230). -/
def ErrorKind.code (k : ErrorKind) : Nat :=
  match k with
  | .decodeError => 1
  | .stackOverflow => 2
  | .stackUnderflow => 3
  | .memoryOutOfBounds => 4

/-- `raise E(pc, word)`: TAKING AN EXCEPTION. Nothing is written but `FAULT <- (E, pc, word)`; `PC` stays at the
offending instruction; there is no handler, saved status or mode change (R12, R233, R239). There is no return from
it (R240): only reset clears `FAULT`. -/
def raise (kind : ErrorKind) (word : Word) (s : State) : Result :=
  .next (s.setFault (some ⟨kind, s.pc, word⟩))

/-! ## The call stack -/

/-- `STACK[k]`; an index at or beyond STACK_DEPTH, which no well-formed state uses, reads 0 (log entry 8). -/
def State.stackAt (s : State) (k : Nat) : Word := s.stack.getD k 0#16

/-- The commit phase of `Push(w)`: `STACK[SP] <- w ; SP <- SP + 1` (R31). -/
def State.push (s : State) (w : Word) : State := { s with stack := s.stack.set s.sp w, sp := s.sp + 1 }

/-- The commit phase of `Pop()`: `SP <- SP - 1`; the popped entry keeps its value in `STACK` (R32). -/
def State.pop (s : State) : State := { s with sp := s.sp - 1 }

/-! ## Groups of registers and of bytes -/

/-- Writes registers `k`, `k + 1`, ... in ascending order. -/
def writeRegs (v : Vector Byte 16) (k : Nat) : List Byte → Vector Byte 16
  | [] => v
  | b :: bs => writeRegs (v.setIfInBounds k b) (k + 1) bs

/-- The contents of `V[0]` to `V[x]` in ascending order. -/
def State.regsUpTo (s : State) (x : Nibble) : List Byte := s.v.toList.take (x.toNat + 1)

/-- Writes bytes at `I`, `I + 1`, ... in ascending order (R62, R193). -/
def State.storeAtI (s : State) (bs : List Byte) : State := s.setMem (Memory.writeBytes s.mem s.i.toNat bs)

/-- The `n` bytes at `I`, `I + 1`, ... in ascending order (R62, R193). -/
def State.loadAtI (s : State) (n : Nat) : List Byte := Memory.readBytes s.mem s.i.toNat n

end Sys2Proof.Machine
end

