-- ==== Sys2Proof/Machine/Operands.lean ====
section
/-! DEFINITION. Every operand form of the instructions: zero-extended immediates (spec/30_encoding.md R87), the low nibble
of a register (spec/44_index_memory.md R192, spec/45_timers_keys.md R213), the operands a parameter selects (spec/42_register_alu.md
R158, spec/41_control_flow.md R134), the index-relative range with its check (spec/44_index_memory.md R193), and BCD digits (R194). -/

namespace Sys2Proof.Machine

/-- `zext_16(nnn)` (R87). -/
def zext16 (nnn : Addr) : Word := nnn.setWidth 16

/-- `V[x][3:0]`: the low nibble that selects a key or a glyph (R192, R213, R214). -/
def State.lowNibble (s : State) (x : Nibble) : Nibble := (s.getV x).extractLsb' 0 4

/-- `KEY[k]` (R37). -/
def State.keyPressed (s : State) (k : Nibble) : Bool := s.key[k.toNat]'(k.isLt)

/-- The least `k` with `KEY[k]` true, if any key is pressed (R215, R216). -/
def State.leastKey (s : State) : Option Nat := s.key.toList.findIdx? id

/-- The operand of 8XY6 and 8XYE: `V[x]`, or `V[y]` under `SHIFT_USES_VY` (R158, R160). -/
def State.shiftSource (s : State) (x y : Nibble) : Byte :=
  if s.params.shiftUsesVY then s.getV y else s.getV x

/-- The register of BNNN: `V[0]`, or `V[x]` with `x = NNN[11:8]` under `JUMP_OFFSET_USES_VX` (R134). -/
def State.jumpOffset (s : State) (nnn : Addr) : Byte :=
  if s.params.jumpOffsetUsesVX then s.getV (nnn.extractLsb' 8 4) else s.getV 0x0#4

/-- Whether the effective address `I + k`, an integer with no truncation, lies in memory (R53, R193). -/
def State.indexInRange (s : State) (k : Nat) : Bool := decide (s.i.toNat + k ≤ maxAddr)

/-- The address of the glyph of a hex digit: `FONT_BASE + 5 * d` (R192). -/
def glyphAddress (p : Params) (d : Nibble) : Word := BitVec.ofNat 16 (p.fontBase + 5 * d.toNat)

/-- Hundreds, tens and ones of a byte, in the order they are stored (R194). -/
def bcdDigits (b : Byte) : List Byte :=
  [BitVec.ofNat 8 (b.toNat / 100), BitVec.ofNat 8 ((b.toNat / 10) % 10), BitVec.ofNat 8 (b.toNat % 10)]

/-- `I <- trunc_16(I + x + 1)` under `LOADSTORE_INCREMENTS_I`, else `I` unchanged (R195, R196). -/
def State.bumpIndex (s : State) (x : Nibble) : State :=
  if s.params.loadStoreIncrementsI then s.setI (BitVec.ofNat 16 (s.i.toNat + x.toNat + 1)) else s

end Sys2Proof.Machine
end

