-- ==== Sys2Proof/Machine/Flags.lean ====
section
/-! DEFINITION. Every flag computation the spec gives, and the one way a flag is written: to VF, with 0 or 1, after the
primary result (spec/10_state.md R24, spec/42_register_alu.md R153 to R160, spec/44_index_memory.md R191). -/

namespace Sys2Proof.Machine

/-- The flag register VF, register 15 (R24). -/
def regF : Nibble := 0xF#4

/-- `V[0xF] <- c ? 1 : 0`, written whether or not the condition holds (R24). -/
def State.writeFlag (s : State) (c : Bool) : State := s.setV regF (if c then 1#8 else 0#8)

/-- Carry of 8XY4: the integer sum exceeds 0xFF (R156). -/
def carryFlag (a b : Byte) : Bool := decide (a.toNat + b.toNat > 0xFF)

/-- NOT borrow of `a - b` (8XY5, 8XY7): 1 when `a ≥ b` (R157, R159). -/
def noBorrowFlag (a b : Byte) : Bool := decide (a.toNat ≥ b.toNat)

/-- The bit that a shift right by one shifts out (R158). -/
def lsbFlag (a : Byte) : Bool := a.getLsbD 0

/-- The bit that a shift left by one shifts out (R160). -/
def msbFlag (a : Byte) : Bool := a.getLsbD 7

/-- Overflow of FX1E: the integer sum exceeds 0x0FFF (R191). -/
def indexOverflowFlag (i : Word) (b : Byte) : Bool := decide (i.toNat + b.toNat > 0x0FFF)

/-- The flag of 8XY1, 8XY2 and 8XY3: VF is cleared under `LOGIC_RESETS_VF`, else untouched (R153). -/
def State.logicFlag (s : State) : State :=
  if s.params.logicResetsVF then s.writeFlag false else s

/-- The flag of FX1E: written under `ADD_INDEX_SETS_VF`, else untouched (R191). -/
def State.indexFlag (s : State) (c : Bool) : State :=
  if s.params.addIndexSetsVF then s.writeFlag c else s

end Sys2Proof.Machine
end

