-- ==== Sys2Proof/Machine/ControlFlow.lean ====
section
/-! DEFINITION. The control-flow instructions SYS, RET, JP, CALL and JP V0 (spec/41_control_flow.md). -/

namespace Sys2Proof.Machine

/-- SYS: an unsupported call, by `SYS_POLICY` a DecodeError or a no-op (R130). -/
def execSys (nnn : Addr) (s : State) : Result :=
  match s.params.sysPolicy with
  | .fault => raise .decodeError (encode (.sys nnn)) s
  | .nop => .next s.advance

/-- RET: pops the return address into PC (R131, R32). -/
def execRet (s : State) : Result :=
  if s.sp = 0 then raise .stackUnderflow (encode .ret) s
  else .next (s.pop.setPC (s.stackAt (s.sp - 1)))

/-- JP: `PC <- NNN` (R132). -/
def execJp (nnn : Addr) (s : State) : Result := .next (s.setPC (zext16 nnn))

/-- CALL: pushes `pc + 2`, then `PC <- NNN` (R133, R31). -/
def execCall (nnn : Addr) (s : State) : Result :=
  if s.sp = s.params.stackDepth then raise .stackOverflow (encode (.call nnn)) s
  else .next ((s.push (s.pc + 2#16)).setPC (zext16 nnn))

/-- JP V0: `PC <- NNN + offset`, not masked (R134). -/
def execJpV0 (nnn : Addr) (s : State) : Result :=
  .next (s.setPC (zext16 nnn + (s.jumpOffset nnn).setWidth 16))

end Sys2Proof.Machine
end

