-- ==== Sys2Proof/Machine/Display.lean ====
section
/-! DEFINITION. The display instructions 00E0 CLS and DXYN DRW (spec/40_display.md). -/

namespace Sys2Proof.Machine

/-- CLS: every cell unlit (R110). -/
def execCls (s : State) : Result := .next (s.setFB []).advance

/-- The bounds check of DRW: it applies when `n > 0`, to the last byte `I + n - 1` (R111, R114). -/
def State.spriteInRange (s : State) (n : Nibble) : Bool :=
  if n.toNat = 0 then true else s.indexInRange (n.toNat - 1)

/-- The cells DRW toggles, in order: `N` bytes at `I` drawn from `(V[x] mod W, V[y] mod H)` (R111 to R113). -/
def State.drawnCells (s : State) (x y n : Nibble) : List Pixel :=
  spriteCells s.params ((s.getV x).toNat % s.params.displayW) ((s.getV y).toNat % s.params.displayH) 0
    (s.loadAtI n.toNat)

/-- DRW: XORs the sprite into the framebuffer, then writes the collision flag (R111 to R114). -/
def execDrw (x y n : Nibble) (s : State) : Result :=
  if s.spriteInRange n then
    let d := drawCells s.fb false (s.drawnCells x y n)
    .next ((s.setFB d.1).writeFlag d.2).advance
  else raise .memoryOutOfBounds (encode (.drw x y n)) s

end Sys2Proof.Machine
end

