-- ==== Sys2Proof/Machine/IndexMemory.lean ====
section
/-! DEFINITION. The index-register and memory instructions (spec/44_index_memory.md). A range is checked whole before the
first write (spec/20_memory.md R53). -/

namespace Sys2Proof.Machine

/-- LD I, NNN (R190). -/
def execLdINnn (nnn : Addr) (s : State) : Result := .next (s.setI (zext16 nnn)).advance

/-- ADD I, VX: modulo 2^16, then the overflow flag (R191). -/
def execAddIVx (x : Nibble) (s : State) : Result :=
  .next (((s.setI (BitVec.ofNat 16 (s.i.toNat + (s.getV x).toNat))).indexFlag
    (indexOverflowFlag s.i (s.getV x))).advance)

/-- LD F, VX: the address of the glyph of `V[x][3:0]` (R192). -/
def execLdFVx (x : Nibble) (s : State) : Result :=
  .next (s.setI (glyphAddress s.params (s.lowNibble x))).advance

/-- LD B, VX: three BCD digits at `I` (R194). -/
def execLdBVx (x : Nibble) (s : State) : Result :=
  if s.indexInRange 2 then .next (s.storeAtI (bcdDigits (s.getV x))).advance
  else raise .memoryOutOfBounds (encode (.ldBVx x)) s

/-- LD [I], VX: stores `V[0]` to `V[x]` at `I` (R195). -/
def execLdMiVx (x : Nibble) (s : State) : Result :=
  if s.indexInRange x.toNat then .next ((s.storeAtI (s.regsUpTo x)).bumpIndex x).advance
  else raise .memoryOutOfBounds (encode (.ldMiVx x)) s

/-- LD VX, [I]: loads `V[0]` to `V[x]` from `I` (R196). -/
def execLdVxMi (x : Nibble) (s : State) : Result :=
  if s.indexInRange x.toNat then
    .next ((s.setRegs (writeRegs s.v 0 (s.loadAtI (x.toNat + 1)))).bumpIndex x).advance
  else raise .memoryOutOfBounds (encode (.ldVxMi x)) s

end Sys2Proof.Machine
end

