-- ==== Sys2Proof/Machine/RegisterAlu.lean ====
section
/-! DEFINITION. The register and arithmetic/logic instructions (spec/42_register_alu.md). Results are computed on
integers and truncated when written (R9, R162); the flag write is last (R13, R24). -/

namespace Sys2Proof.Machine

/-- A result into `V[x]` with no flag. -/
def State.result (s : State) (x : Nibble) (r : Byte) : Result := .next (s.setV x r).advance

/-- A result into `V[x]`, then a flag into VF. -/
def State.resultFlag (s : State) (x : Nibble) (r : Byte) (c : Bool) : Result :=
  .next ((s.setV x r).writeFlag c).advance

/-- A logic result into `V[x]`, then the flag of `LOGIC_RESETS_VF`. -/
def State.resultLogic (s : State) (x : Nibble) (r : Byte) : Result := .next (s.setV x r).logicFlag.advance

/-- `trunc_8(a + b)` (R9). -/
def addTrunc (a b : Byte) : Byte := BitVec.ofNat 8 (a.toNat + b.toNat)

/-- `trunc_8(a - b + 0x100)` (R157). -/
def subTrunc (a b : Byte) : Byte := BitVec.ofNat 8 (a.toNat + 0x100 - b.toNat)

/-- LD VX, NN (R150). -/
def execLdVxNn (x : Nibble) (nn : Byte) (s : State) : Result := s.result x nn

/-- ADD VX, NN: no flag (R151). -/
def execAddVxNn (x : Nibble) (nn : Byte) (s : State) : Result := s.result x (addTrunc (s.getV x) nn)

/-- LD VX, VY (R152). -/
def execLdVxVy (x y : Nibble) (s : State) : Result := s.result x (s.getV y)

/-- OR VX, VY (R153). -/
def execOr (x y : Nibble) (s : State) : Result := s.resultLogic x (s.getV x ||| s.getV y)

/-- AND VX, VY (R154). -/
def execAnd (x y : Nibble) (s : State) : Result := s.resultLogic x (s.getV x &&& s.getV y)

/-- XOR VX, VY (R155). -/
def execXor (x y : Nibble) (s : State) : Result := s.resultLogic x (s.getV x ^^^ s.getV y)

/-- ADD VX, VY with carry out (R156). -/
def execAddVxVy (x y : Nibble) (s : State) : Result :=
  s.resultFlag x (addTrunc (s.getV x) (s.getV y)) (carryFlag (s.getV x) (s.getV y))

/-- SUB VX, VY: VX minus VY (R157). -/
def execSub (x y : Nibble) (s : State) : Result :=
  s.resultFlag x (subTrunc (s.getV x) (s.getV y)) (noBorrowFlag (s.getV x) (s.getV y))

/-- SHR VX: shift right by one (R158). -/
def execShr (x y : Nibble) (s : State) : Result :=
  s.resultFlag x (s.shiftSource x y >>> 1) (lsbFlag (s.shiftSource x y))

/-- SUBN VX, VY: VY minus VX (R159). -/
def execSubn (x y : Nibble) (s : State) : Result :=
  s.resultFlag x (subTrunc (s.getV y) (s.getV x)) (noBorrowFlag (s.getV y) (s.getV x))

/-- SHL VX: shift left by one (R160). -/
def execShl (x y : Nibble) (s : State) : Result :=
  s.resultFlag x (s.shiftSource x y <<< 1) (msbFlag (s.shiftSource x y))

/-- RND VX, NN: a fresh draw of the oracle AND NN (R161). -/
def execRnd (x : Nibble) (nn : Byte) (s : State) : Result :=
  s.countDraw.result x (Config.randByte s.draws &&& nn)

end Sys2Proof.Machine
end

