-- ==== Sys2Proof/Machine/Skip.lean ====
section
/-! DEFINITION. The conditional skips (spec/43_skip.md): `PC + 4` when the condition holds, whatever the skipped word is
(R184). -/

namespace Sys2Proof.Machine

/-- SE VX, NN (R180). -/
def execSeVxNn (x : Nibble) (nn : Byte) (s : State) : Result := .next (s.skipIf (s.getV x == nn))

/-- SNE VX, NN (R181). -/
def execSneVxNn (x : Nibble) (nn : Byte) (s : State) : Result := .next (s.skipIf (s.getV x != nn))

/-- SE VX, VY (R182). -/
def execSeVxVy (x y : Nibble) (s : State) : Result := .next (s.skipIf (s.getV x == s.getV y))

/-- SNE VX, VY (R183). -/
def execSneVxVy (x y : Nibble) (s : State) : Result := .next (s.skipIf (s.getV x != s.getV y))

end Sys2Proof.Machine
end

