-- ==== Sys2Proof/Machine/TimersKeys.lean ====
section
/-! DEFINITION. The timer and key instructions (spec/45_timers_keys.md R210 to R216). -/

namespace Sys2Proof.Machine

/-- SKP VX (R213). -/
def execSkp (x : Nibble) (s : State) : Result := .next (s.skipIf (s.keyPressed (s.lowNibble x)))

/-- SKNP VX (R214). -/
def execSknp (x : Nibble) (s : State) : Result := .next (s.skipIf (!s.keyPressed (s.lowNibble x)))

/-- LD VX, DT (R210). -/
def execLdVxDt (x : Nibble) (s : State) : Result := .next (s.setV x s.dt).advance

/-- LD VX, K: the least pressed key, or a step that changes nothing while no key is pressed (R215, R216). -/
def execLdVxK (x : Nibble) (s : State) : Result :=
  match s.leastKey with
  | some k => .next (s.setV x (BitVec.ofNat 8 k)).advance
  | none => .next s

/-- LD DT, VX (R211). -/
def execLdDtVx (x : Nibble) (s : State) : Result := .next (s.setDT (s.getV x)).advance

/-- LD ST, VX (R212). -/
def execLdStVx (x : Nibble) (s : State) : Result := .next (s.setST (s.getV x)).advance

end Sys2Proof.Machine
end

