-- ==== Sys2Proof/Machine/Fetch.lean ====
section
/-! DEFINITION. What surrounds the meaning of an instruction in a step: the latch test, the fetch with its bounds check,
decoding, the policy for unknown words (spec/60_exceptions.md R235 to R237, R247; spec/20_memory.md R55 to R57), and
the placing of a word where the next step fetches. -/

namespace Sys2Proof.Machine

/-- `MEM[pc] ++ MEM[pc + 1]` (R55, R56). -/
def State.fetchWord (s : State) : Word :=
  wordOfBytes (Memory.read s.mem s.pc.toNat) (Memory.read s.mem (s.pc.toNat + 1))

/-- Whether both bytes of the word at `PC` lie in memory (R56, R57). -/
def State.fetchInRange (s : State) : Bool := decide (s.pc.toNat + 1 ≤ maxAddr)

/-- The policy for an `Unknown` word: DecodeError under `halt`, `PC + 2` under `skip` (R236). -/
def unknownWord (w : Word) (s : State) : Result :=
  match s.params.unknownOpcodePolicy with
  | .halt => raise .decodeError w s
  | .skip => .next s.advance

/-- One fetch-decode-execute cycle over a meaning of the instructions, in the order of tests of R237: the latch, the
fetch bounds, decoding, then the instruction (R247). A step on a faulted machine changes nothing (R235). -/
def cycle (meaning : Instr → State → Result) (s : State) : Result :=
  match s.fault with
  | some _ => .next s
  | none =>
    if s.fetchInRange then
      match decode s.fetchWord with
      | .op i => meaning i s
      | .unknown w => unknownWord w s
    else raise .memoryOutOfBounds 0x0000#16 s

/-- The state with the two bytes of a word stored at `PC`, ready for the next step to fetch: the latch is cleared, and a
`PC` that nothing can be fetched from is first moved to the load offset. -/
def State.placeWord (s : State) (w : Word) : State :=
  let t := (if s.fetchInRange then s else s.setPC 0x200#16).setFault none
  t.setMem (Memory.writeBytes t.mem t.pc.toNat [highByte w, lowByte w])

end Sys2Proof.Machine
end

