-- ==== Sys2Proof/Machine/HostOps.lean ====
section
/-! DEFINITION. What the host's operations other than `step` do to the machine (spec/60_exceptions.md R246 to R252, spec/70_reset_and_hazards.md
R260 to R265, spec/45_timers_keys.md R220). Each is atomic and happens between steps (R268, R281). When `load` may be called is Session.lean's (R264). -/

namespace Sys2Proof.Machine

/-- Construction with parameters: the reset state; parameters outside their domains are refused (R7, R260). -/
def State.construct (p : Params) : Result :=
  if p.wf then .next (State.resetWith p) else .refused .badParameters

/-- What `load` writes: the font at FONT_BASE, then the program at 0x200, verbatim; `PC <- 0x200` (R262). -/
def loadState (bytes : List Byte) (s : State) : State :=
  (s.setMem (Memory.writeBytes (Memory.writeBytes s.mem s.params.fontBase s.params.font) loadOffset bytes)).setPC
    0x200#16

/-- A counter's tick: down by one, holding at zero (R220). -/
def tickByte (b : Byte) : Byte := if b.toNat > 0 then b - 1#8 else b

/-- `tick_timers()`: it reads no `FAULT` and changes nothing but the two timers (R220, R221, R251). -/
def tickTimers (s : State) : State := (s.setDT (tickByte s.dt)).setST (tickByte s.st)

/-- `set_key_state(k, pressed)`: an index outside 0..15 is refused (R249). -/
def setKeyState (k : Nat) (pressed : Bool) (s : State) : Result :=
  if k < numKeys then .next (s.setKeys (s.key.setIfInBounds k pressed)) else .refused .noSuchKey

/-- `framebuffer_snapshot()`: a copy of `FB` as rows of booleans (R248, R67). -/
def framebufferSnapshot (s : State) : List (List Bool) := Framebuffer.grid s.params s.fb

/-- `sound_active()`: whether `ST ≠ 0` (R250). -/
def soundActive (s : State) : Bool := s.st != 0#8

end Sys2Proof.Machine
end

