-- ==== Sys2Proof/Machine/Session.lean ====
section
/-! DEFINITION. The host's view of the whole block: the result of `step()` (spec/60_exceptions.md R234), one operation
between others with the contract of `load`, and a session: construct, load once, then any operations (R246, R264, R266,
R281). -/

namespace Sys2Proof.Machine

/-- The result of `step()`: `Ok`, or `Err(kind, pc, word)` (R234). -/
inductive StepResult where
  | ok
  | err (r : ErrorRecord)
  deriving DecidableEq, Repr

/-- The result that `step()` returns, read from the state it leaves: `FAULT` is set exactly when the step raised an error
or the machine was faulted already (R233 to R235). -/
def stepResult (after : State) : StepResult :=
  match after.fault with
  | none => .ok
  | some r => .err r

/-- A machine in the hands of its host. Whether `load` may still be called is the contract's and no state of the block
(R20, R264), so it stands beside the machine (log entry 5). -/
structure Session where
  /-- the machine -/
  machine : State
  /-- whether no `load` and no step has been called since reset (R264) -/
  loadable : Bool
  deriving DecidableEq, Repr

/-- The outcomes of an operation of the host. -/
abbrev SessionResult := Host.Outcome Session Fault Refusal

/-- The session after an operation on the machine, and whether `load` may still be called. -/
def Session.next (loadable : Bool) (r : Result) : SessionResult :=
  match r with
  | .next t => .next ⟨t, loadable⟩
  | .fault f => .fault f
  | .refused e => .refused e

/-- Reset: a machine is constructed, and `load` may be called (R260, R264). -/
def Session.construct (p : Params) : SessionResult := Session.next true (State.construct p)

/-- `load(program_bytes)`: called once, after reset and before the first step, and refused at any other time (R264); a
program longer than 3584 bytes is refused (R262, R263). -/
def load (bytes : List Byte) (h : Session) : SessionResult :=
  if h.loadable then
    if bytes.length ≤ memSize - loadOffset then .next ⟨loadState bytes h.machine, false⟩ else .refused .programTooLong
  else .refused .loadOutOfOrder

/-- What the host may do after reset, in any order (R246, R281); out of its order `load` is refused (R264). -/
inductive HostOp where
  | load (bytes : List Byte)
  | step
  | tickTimers
  | setKeyState (k : Nat) (pressed : Bool)
  | framebufferSnapshot
  | soundActive
  deriving DecidableEq, Repr

/-- The effect of one operation (R246). The two reads change nothing. A step before `load` is admitted (R266); after it
there is no `load` (R264). -/
def hostOp (o : HostOp) (h : Session) : SessionResult :=
  match o with
  | .load bytes => Sys2Proof.Machine.load bytes h
  | .step => Session.next false (Sys2Proof.Machine.step h.machine)
  | .tickTimers => .next ⟨Sys2Proof.Machine.tickTimers h.machine, h.loadable⟩
  | .setKeyState k pressed => Session.next h.loadable (Sys2Proof.Machine.setKeyState k pressed h.machine)
  | .framebufferSnapshot => .next h
  | .soundActive => .next h

/-- Any finite interleaving of operations (R281), ending at the first that is refused. -/
def runHost : List HostOp → Session → SessionResult
  | [], h => .next h
  | o :: os, h =>
    match hostOp o h with
    | .next g => runHost os g
    | .fault f => .fault f
    | .refused r => .refused r

/-- A whole session: construct with parameters, load one program, then the operations (R264, R266). -/
def runSession (p : Params) (program : List Byte) (ops : List HostOp) : SessionResult :=
  match Session.construct p with
  | .next h => runHost (.load program :: ops) h
  | .fault f => .fault f
  | .refused r => .refused r

end Sys2Proof.Machine
end

