-- ==== Sys2Proof/Safety.lean ====
section
/-! DEFINITION. What counts as a safe run, in the terms the statements use: the invariants of the state (spec/10_state.md),
which step raises which error (spec/60_exceptions.md R231, R237), and the ends of a run (spec/70_reset_and_hazards.md R272). -/

namespace Sys2Proof

/-- The six instructions that may advance `PC` by 4 (R28, R184). -/
def Instr.isSkip (i : Instr) : Prop :=
  (∃ x nn, i = .seVxNn x nn ∨ i = .sneVxNn x nn) ∨ (∃ x y, i = .seVxVy x y ∨ i = .sneVxVy x y) ∨
    (∃ x, i = .skp x ∨ i = .sknp x)

/-- The four instructions that set `PC` to a target (R28). -/
def Instr.isTransfer (i : Instr) : Prop :=
  i = .ret ∨ ∃ nnn, i = .jp nnn ∨ i = .call nnn ∨ i = .jpV0 nnn

end Sys2Proof

namespace Sys2Proof.Machine

/-- The relations between fields that hold at reset and that every step and host operation keeps: parameters in their
domains (R7), memory in its canonical form (R50), `SP` from 0 to STACK_DEPTH (R20), a stack of STACK_DEPTH entries (R30),
lit cells inside the grid and listed once (R35). -/
abbrev State.Inv (s : State) : Prop :=
  s.params.wf ∧ Memory.wf s.mem ∧ s.sp ≤ s.params.stackDepth ∧ s.stack.length = s.params.stackDepth ∧
    Framebuffer.wf s.params s.fb

/-- The bounds of the addresses that `PC` and the call stack hold (R28). -/
abbrev State.PcBound (s : State) : Prop :=
  s.pc.toNat ≤ 0x10FE ∧ ∀ w ∈ s.stack, w.toNat ≤ 0x1000

/-- The latch names the instruction that `PC` points at (R233, R239). -/
abbrev State.LatchAtPC (s : State) : Prop := ∀ r, s.fault = some r → r.pc = s.pc

/-- Which error an instruction raises in a state, the table of R231; `none` where it raises none. -/
def raisedBy (i : Instr) (s : State) : Option ErrorKind :=
  match i with
  | .sys _ => if s.params.sysPolicy = .fault then some .decodeError else none
  | .cls => none
  | .ret => if s.sp = 0 then some .stackUnderflow else none
  | .jp _ => none
  | .call _ => if s.sp = s.params.stackDepth then some .stackOverflow else none
  | .seVxNn _ _ => none
  | .sneVxNn _ _ => none
  | .seVxVy _ _ => none
  | .ldVxNn _ _ => none
  | .addVxNn _ _ => none
  | .ldVxVy _ _ => none
  | .or _ _ => none
  | .and _ _ => none
  | .xor _ _ => none
  | .addVxVy _ _ => none
  | .sub _ _ => none
  | .shr _ _ => none
  | .subn _ _ => none
  | .shl _ _ => none
  | .sneVxVy _ _ => none
  | .ldINnn _ => none
  | .jpV0 _ => none
  | .rnd _ _ => none
  | .drw _ _ n => if n.toNat > 0 ∧ s.i.toNat + n.toNat > 0x1000 then some .memoryOutOfBounds else none
  | .skp _ => none
  | .sknp _ => none
  | .ldVxDt _ => none
  | .ldVxK _ => none
  | .ldDtVx _ => none
  | .ldStVx _ => none
  | .addIVx _ => none
  | .ldFVx _ => none
  | .ldBVx _ => if s.i.toNat + 2 > 0xFFF then some .memoryOutOfBounds else none
  | .ldMiVx x => if s.i.toNat + x.toNat > 0xFFF then some .memoryOutOfBounds else none
  | .ldVxMi x => if s.i.toNat + x.toNat > 0xFFF then some .memoryOutOfBounds else none

/-- Which error a step raises on a machine that is not faulted, with what it records: the table of R231 in the order of
tests of R237. The word recorded is the fetched one, or 0x0000 when the fetch itself fails (R232). -/
def expectedError (s : State) : Option ErrorRecord :=
  if s.pc.toNat + 1 > 0xFFF then some ⟨.memoryOutOfBounds, s.pc, 0x0000#16⟩
  else
    match decode s.fetchWord with
    | .unknown _ =>
      if s.params.unknownOpcodePolicy = .halt then some ⟨.decodeError, s.pc, s.fetchWord⟩ else none
    | .op i => (raisedBy i s).map (fun k => ⟨k, s.pc, s.fetchWord⟩)

/-- The faulted end of a run (R272). -/
abbrev State.faulted (s : State) : Prop := s.fault ≠ none

/-- The idle end of a run: the word at `PC` is `1NNN` with `NNN = PC` (R272). -/
abbrev State.idle (s : State) : Prop :=
  s.fault = none ∧ s.pc.toNat + 1 ≤ 0xFFF ∧
    (Memory.read s.mem s.pc.toNat ++ Memory.read s.mem (s.pc.toNat + 1) : Word) = 0x1000#16 + s.pc

end Sys2Proof.Machine
end

