-- ==== Sys2Proof/Certificates/Slice0/Obligations.lean ====
section
/-! DEFINITION. The statements for the provers, each written from the spec's numbered rules. A statement about an
instruction concludes that `exec` answers a next state, says what that state holds, and gives its frame as one
equation of states: every field that the equation takes from `s` is unchanged. -/

open Sys2Proof Sys2Proof.Machine

/-! ## Words used by the statements -/

/-- Only the register `x` and PC, which advances by 2, differ. -/
def Sys2Proof.Claims.OnlyRegister (s t : State) (x : Nibble) : Prop :=
  t = { s with v := t.v, pc := s.pc + 2#16 } ∧ ∀ z, z ≠ x → t.getV z = s.getV z

/-- Only the register `x`, VF and PC, which advances by 2, differ. -/
def Sys2Proof.Claims.OnlyRegisterAndFlag (s t : State) (x : Nibble) : Prop :=
  t = { s with v := t.v, pc := s.pc + 2#16 } ∧ ∀ z, z ≠ x → z ≠ 0xF#4 → t.getV z = s.getV z

/-- The state after an error: the state before it with the latch set and nothing else (R233). -/
def Sys2Proof.Claims.Errs (i : Instr) (s : State) (k : ErrorKind) (word : Word) : Prop :=
  exec i s = .next { s with fault := some ⟨k, s.pc, word⟩ }

/-- Whether DRW VX, VY, N of the state toggles cell `q` under `DRAW_EDGE = wrap` (R111, R112). -/
def Sys2Proof.Claims.CoversWrap (s : State) (x y n : Nibble) (q : Pixel) : Prop :=
  ∃ r c, r < n.toNat ∧ c < 8 ∧ (Memory.read s.mem (s.i.toNat + r)).getLsbD (7 - c) = true ∧
    q.x = ((s.getV x).toNat % s.params.displayW + c) % s.params.displayW ∧
    q.y = ((s.getV y).toNat % s.params.displayH + r) % s.params.displayH

/-- How often DRW VX, VY, N of the state toggles cell `q` under `DRAW_EDGE = wrap`: the sum over the rows of the sprite
of the 1 bits that land on `q` (R111, R112). -/
def Sys2Proof.Claims.touches (s : State) (x y n : Nibble) (q : Pixel) : Nat :=
  ((List.range n.toNat).map (fun r => ((List.range 8).filter (fun c =>
    (Memory.read s.mem (s.i.toNat + r)).getLsbD (7 - c) &&
      decide (q.x = ((s.getV x).toNat % s.params.displayW + c) % s.params.displayW ∧
        q.y = ((s.getV y).toNat % s.params.displayH + r) % s.params.displayH))).length)).sum

/-- Whether DRW VX, VY, N of the state toggles cell `q` under `DRAW_EDGE = clip` (R113). -/
def Sys2Proof.Claims.CoversClip (s : State) (x y n : Nibble) (q : Pixel) : Prop :=
  ∃ r c, r < n.toNat ∧ c < 8 ∧ (Memory.read s.mem (s.i.toNat + r)).getLsbD (7 - c) = true ∧
    q.x = (s.getV x).toNat % s.params.displayW + c ∧ q.x < s.params.displayW ∧
    q.y = (s.getV y).toNat % s.params.displayH + r ∧ q.y < s.params.displayH

/-- Whether the instruction is a skip whose condition holds (R180 to R183, R213, R214). -/
def Sys2Proof.Claims.SkipHolds (i : Instr) (s : State) : Prop :=
  (∃ x nn, (i = .seVxNn x nn ∧ s.getV x = nn) ∨ (i = .sneVxNn x nn ∧ s.getV x ≠ nn)) ∨
  (∃ x y, (i = .seVxVy x y ∧ s.getV x = s.getV y) ∨ (i = .sneVxVy x y ∧ s.getV x ≠ s.getV y)) ∨
  ∃ x, (i = .skp x ∧ s.keyPressed (BitVec.ofNat 4 ((s.getV x).toNat % 16)) = true) ∨
    (i = .sknp x ∧ s.keyPressed (BitVec.ofNat 4 ((s.getV x).toNat % 16)) = false)

/-- Whether the instruction is FX0A with no key pressed (R215). -/
def Sys2Proof.Claims.Waits (i : Instr) (s : State) : Prop :=
  ∃ x, i = .ldVxK x ∧ ∀ k : Nibble, s.keyPressed k = false

/-- Two states that agree in everything but the call-stack entries at or above SP (R33). -/
def Sys2Proof.Claims.AgreeBelowSP (s t : State) : Prop :=
  t = { s with stack := t.stack } ∧ t.stack.length = s.stack.length ∧
    ∀ k, k < s.sp → t.stackAt k = s.stackAt k

/-! ## Encoding -/

/-- R90, R91: decoding the word of a well-formed instruction gives it back, with every operand at every value. -/
def Obligations.DecodeOfEncode : Prop :=
  ∀ i : Instr, i.WellFormed → decode (encode i) = .op i

/-- R88, R96: a word that decodes to an instruction is that instruction's word, so no fixed bit is ignored. -/
def Obligations.EncodeOfDecode : Prop :=
  ∀ (w : Word) (i : Instr), decode w = .op i → i.WellFormed ∧ encode i = w

/-- R95: the words that decode as Unknown, and each is refused under its own name. -/
def Obligations.UnknownWordsExactly : Prop :=
  ∀ w : Word,
    (∀ u, decode w = .unknown u → u = w) ∧
    ((∃ u, decode w = .unknown u) ↔
      (w.toNat / 0x1000 = 0x5 ∧ w.toNat % 0x10 ≠ 0) ∨
      (w.toNat / 0x1000 = 0x8 ∧ w.toNat % 0x10 ∈ [0x8, 0x9, 0xA, 0xB, 0xC, 0xD, 0xF]) ∨
      (w.toNat / 0x1000 = 0x9 ∧ w.toNat % 0x10 ≠ 0) ∨
      (w.toNat / 0x1000 = 0xE ∧ w.toNat % 0x100 ∉ [0x9E, 0xA1]) ∨
      (w.toNat / 0x1000 = 0xF ∧
        w.toNat % 0x100 ∉ [0x07, 0x0A, 0x15, 0x18, 0x1E, 0x29, 0x33, 0x55, 0x65]))

/-- R82 to R86: the fields of a word as numbers, and C8RS's worked values. -/
def Obligations.FieldsAreExact : Prop :=
  (∀ w : Word,
    (opClass w).toNat = w.toNat / 0x1000 ∧ (fieldX w).toNat = w.toNat / 0x100 % 0x10 ∧
    (fieldY w).toNat = w.toNat / 0x10 % 0x10 ∧ (fieldN w).toNat = w.toNat % 0x10 ∧
    (fieldNN w).toNat = w.toNat % 0x100 ∧ (fieldNNN w).toNat = w.toNat % 0x1000) ∧
  fieldNNN 0x1228#16 = 0x228#12 ∧ fieldX 0x6A02#16 = 0xA#4 ∧
  opClass 0xA22A#16 = 0xA#4 ∧ fieldNNN 0xA22A#16 = 0x22A#12

/-- R90 to R93: words written out from the spec decode to the instructions they stand for (V7 and E3 of spec/95). -/
def Obligations.SpecWordsDecode : Prop :=
  decode 0x00E0#16 = .op .cls ∧ decode 0x00EE#16 = .op .ret ∧ decode 0x0000#16 = .op (.sys 0x000) ∧
  decode 0x00E1#16 = .op (.sys 0x0E1) ∧ decode 0xA22A#16 = .op (.ldINnn 0x22A) ∧
  decode 0x8AB4#16 = .op (.addVxVy 0xA 0xB) ∧ decode 0xDABC#16 = .op (.drw 0xA 0xB 0xC) ∧
  decode 0xF165#16 = .op (.ldVxMi 0x1) ∧ decode 0x5121#16 = .unknown 0x5121#16

/-! ## A step -/

/-- R56, R247: when the two bytes at PC decode to an instruction, a step is exactly its meaning; `exec` moves PC itself. -/
def Obligations.StepRunsTheDecodedInstruction : Prop :=
  ∀ (s : State) (i : Instr), s.fault = none → s.pc.toNat + 1 ≤ 0xFFF →
    decode (Memory.read s.mem s.pc.toNat ++ Memory.read s.mem (s.pc.toNat + 1)) = .op i →
    step s = exec i s

/-- R57: a fetch from 0xFFF or beyond raises MemoryOutOfBounds, records the word 0 and changes nothing else. -/
def Obligations.FetchBeyondMemoryErrs : Prop :=
  ∀ s : State, s.fault = none → 0xFFF ≤ s.pc.toNat →
    step s = .next { s with fault := some ⟨.memoryOutOfBounds, s.pc, 0x0000#16⟩ }

/-- R236: an Unknown word raises DecodeError under `halt` and only advances PC under `skip`. -/
def Obligations.UnknownWordPolicy : Prop :=
  ∀ (s : State) (u : Word), s.fault = none → s.pc.toNat + 1 ≤ 0xFFF →
    decode (Memory.read s.mem s.pc.toNat ++ Memory.read s.mem (s.pc.toNat + 1)) = .unknown u →
    (s.params.unknownOpcodePolicy = .halt →
      step s = .next { s with fault := some ⟨.decodeError, s.pc,
        Memory.read s.mem s.pc.toNat ++ Memory.read s.mem (s.pc.toNat + 1)⟩ }) ∧
    (s.params.unknownOpcodePolicy = .skip → step s = .next { s with pc := s.pc + 2#16 })

/-- R235: a step on a faulted machine changes nothing and returns the latched triple; no operation clears the latch. -/
def Obligations.FaultedMachineStays : Prop :=
  ∀ (s : State) (r : ErrorRecord), s.fault = some r →
    step s = .next s ∧ stepResult s = .err r ∧
    ∀ (o : HostOp) (loadable : Bool) (g : Session), hostOp o ⟨s, loadable⟩ = .next g → g.machine.fault = some r

/-- R272: a step never stops the machine; it always answers a next state. -/
def Obligations.StepAlwaysAnswers : Prop :=
  ∀ s : State, ∃ t, step s = .next t

/-- R230, R231, R232, R237: a step raises exactly the error of the table, and none where the table has none; the four
kinds have the codes 1 to 4. -/
def Obligations.StepRaisesExactlyTheTable : Prop :=
  (∀ s t : State, s.fault = none → step s = .next t → t.fault = expectedError s) ∧
  ErrorKind.code .decodeError = 1 ∧ ErrorKind.code .stackOverflow = 2 ∧ ErrorKind.code .stackUnderflow = 3 ∧
  ErrorKind.code .memoryOutOfBounds = 4

/-- R233: a step that raises an error writes FAULT and nothing else, and returns that error. -/
def Obligations.ErrorsArePrecise : Prop :=
  ∀ (s t : State) (r : ErrorRecord), s.fault = none → step s = .next t → t.fault = some r →
    t = { s with fault := some r } ∧ r.pc = s.pc ∧ stepResult t = .err r

/-- R28: the next PC of every instruction, case by case: unchanged on an error and while FX0A waits, the target of a
transfer, `pc + 4` for a skip whose condition holds, and `pc + 2` for every other. -/
def Obligations.NextPcOfAnInstruction : Prop :=
  ∀ (i : Instr) (s t : State), exec i s = .next t →
    ((∃ k, raisedBy i s = some k) → t.pc = s.pc) ∧
    (raisedBy i s = none →
      (i = .ret → t.pc = s.stackAt (s.sp - 1)) ∧
      (∀ nnn, i = .jp nnn ∨ i = .call nnn → t.pc = BitVec.ofNat 16 nnn.toNat) ∧
      (∀ nnn, i = .jpV0 nnn → t.pc.toNat = nnn.toNat +
        (s.getV (if s.params.jumpOffsetUsesVX = true then BitVec.ofNat 4 (nnn.toNat / 0x100) else 0x0#4)).toNat) ∧
      (Claims.SkipHolds i s → t.pc = s.pc + 4#16) ∧
      (Claims.Waits i s → t.pc = s.pc) ∧
      (¬i.isTransfer → ¬Claims.SkipHolds i s → ¬Claims.Waits i s → t.pc = s.pc + 2#16))

/-! ## Invariants -/

/-- R41, R260: the reset state meets the invariants, whatever the parameters. -/
def Obligations.ResetMeetsTheInvariants : Prop :=
  (State.reset.Inv ∧ State.reset.PcBound ∧ State.reset.LatchAtPC) ∧
  ∀ p : Params, p.wf → (State.resetWith p).Inv ∧ (State.resetWith p).PcBound

/-- R20, R30, R35, R50: every step keeps the relations between the fields of the state. -/
def Obligations.StepKeepsInvariant : Prop :=
  ∀ s t : State, s.Inv → step s = .next t → t.Inv

/-- R28: every step keeps PC at most 0x10FE and every return address at most 0x1000, so PC never wraps. -/
def Obligations.StepKeepsPcBound : Prop :=
  ∀ s t : State, s.PcBound → step s = .next t → t.PcBound

/-- R239: every step keeps the latch at the instruction PC points at. -/
def Obligations.StepKeepsLatchAtPC : Prop :=
  ∀ s t : State, s.LatchAtPC → step s = .next t → t.LatchAtPC

/-- R246, R281: every interleaving of host operations keeps the invariants, `load` in its order among them. -/
def Obligations.HostSessionsKeepInvariants : Prop :=
  (∀ (ops : List HostOp) (h g : Session), h.machine.Inv → h.machine.PcBound → runHost ops h = .next g →
    g.machine.Inv ∧ g.machine.PcBound) ∧
  ∀ (p : Params) (program : List Byte) (ops : List HostOp) (g : Session),
    runSession p program ops = .next g → g.machine.Inv ∧ g.machine.PcBound

/-! ## What no instruction changes -/

/-- R7, R37: no operation changes the parameters, and no step changes the keys. -/
def Obligations.ParametersAndKeysAreTheHosts : Prop :=
  (∀ (o : HostOp) (h g : Session), hostOp o h = .next g → g.machine.params = h.machine.params) ∧
  ∀ s t : State, step s = .next t → t.key = s.key

/-- R52: no instruction but FX33 and FX55 changes memory. -/
def Obligations.OnlyStoresWriteMemory : Prop :=
  ∀ (i : Instr) (s t : State), exec i s = .next t → t.mem ≠ s.mem → ∃ x, i = .ldBVx x ∨ i = .ldMiVx x

/-- R36: no instruction but CLS and DRW changes the framebuffer. -/
def Obligations.OnlyDisplayWritesFramebuffer : Prop :=
  ∀ (i : Instr) (s t : State), exec i s = .next t → t.fb ≠ s.fb → i = .cls ∨ ∃ x y n, i = .drw x y n

/-- R30: no instruction but CALL and RET changes the call stack or SP. -/
def Obligations.OnlyCallAndReturnChangeTheStack : Prop :=
  ∀ (i : Instr) (s t : State), exec i s = .next t → t.stack ≠ s.stack ∨ t.sp ≠ s.sp →
    i = .ret ∨ ∃ nnn, i = .call nnn

/-- R34, R221: no instruction but FX15 changes DT and none but FX18 changes ST; each writes a copy of its register. -/
def Obligations.OnlyTimerSettersWriteTimers : Prop :=
  ∀ (i : Instr) (s t : State), exec i s = .next t →
    (t.dt ≠ s.dt → ∃ x, i = .ldDtVx x ∧ t.dt = s.getV x) ∧
    (t.st ≠ s.st → ∃ x, i = .ldStVx x ∧ t.st = s.getV x)

/-- R26: no instruction but ANNN, FX1E, FX29 and, under LOADSTORE_INCREMENTS_I, FX55 and FX65 changes I. -/
def Obligations.OnlyIndexInstructionsWriteI : Prop :=
  ∀ (i : Instr) (s t : State), exec i s = .next t → t.i ≠ s.i →
    (∃ nnn, i = .ldINnn nnn) ∨ (∃ x, i = .addIVx x ∨ i = .ldFVx x) ∨
    (s.params.loadStoreIncrementsI = true ∧ ∃ x, i = .ldMiVx x ∨ i = .ldVxMi x)

/-! ## What a step cannot learn -/

/-- R33: stack entries at or above SP have no effect on any step, so they are not observable. Both states are
served by the same RAND oracle (log entry 9). -/
def Obligations.DeadStackEntriesAreNotObservable : Prop :=
  ∀ s s' : State, Claims.AgreeBelowSP s s' →
    ∃ t t', step s = .next t ∧ step s' = .next t' ∧ Claims.AgreeBelowSP t t'

/-- R34: no instruction reads ST; two states that differ in ST alone differ in ST alone after a step. Both are
served by the same RAND oracle (log entry 9). -/
def Obligations.SoundTimerIsNotRead : Prop :=
  ∀ (s : State) (b : Byte), ∃ t t', step s = .next t ∧ step { s with st := b } = .next t' ∧
    t' = { t with st := t'.st } ∧ ((t.st = s.st ∧ t'.st = b) ∨ t'.st = t.st)

/-! ## Display -/

/-- R110: CLS turns every cell off and changes nothing else but PC. -/
def Obligations.ClearTurnsEveryCellOff : Prop :=
  ∀ s : State, ∃ t, exec .cls s = .next t ∧ (∀ q, Framebuffer.lit t.fb q = false) ∧
    t = { s with fb := t.fb, pc := s.pc + 2#16 }

/-- R111, R112: under `wrap`, on a display on which no cell is drawn twice, DRW toggles exactly the covered cells, sets
VF to 1 exactly when a covered cell was lit, and changes nothing else but PC. -/
def Obligations.DrawWrapTogglesTheSprite : Prop :=
  ∀ (s : State) (x y n : Nibble), s.Inv → s.params.drawEdge = .wrap → 8 ≤ s.params.displayW →
    n.toNat ≤ s.params.displayH → (n.toNat = 0 ∨ s.i.toNat + n.toNat ≤ 0x1000) →
    ∃ t, exec (.drw x y n) s = .next t ∧
      (∀ q, Framebuffer.lit t.fb q = true ↔
        ¬(Framebuffer.lit s.fb q = true ↔ Claims.CoversWrap s x y n q)) ∧
      ((∃ q, Claims.CoversWrap s x y n q ∧ Framebuffer.lit s.fb q = true) → t.getV 0xF#4 = 1#8) ∧
      ((¬∃ q, Claims.CoversWrap s x y n q ∧ Framebuffer.lit s.fb q = true) → t.getV 0xF#4 = 0#8) ∧
      t = { s with fb := t.fb, v := t.v, pc := s.pc + 2#16 } ∧ ∀ z, z ≠ 0xF#4 → t.getV z = s.getV z

/-- R111, R112, R114: under `wrap`, on a display of any size, a cell ends toggled when the sprite touches it an odd number
of times; VF is 1 exactly when a toggle found a lit cell, that is, when a touched cell was lit before or is touched twice;
a sprite that runs past 0xFFF raises MemoryOutOfBounds. -/
def Obligations.DrawWrapOnAnyDisplay : Prop :=
  ∀ (s : State) (x y n : Nibble), s.Inv → s.params.drawEdge = .wrap →
    (0 < n.toNat ∧ 0xFFF < s.i.toNat + n.toNat - 1 →
      Claims.Errs (.drw x y n) s .memoryOutOfBounds (encode (.drw x y n))) ∧
    (n.toNat = 0 ∨ s.i.toNat + n.toNat - 1 ≤ 0xFFF →
      ∃ t, exec (.drw x y n) s = .next t ∧
        (∀ q, Framebuffer.lit t.fb q =
          (Framebuffer.lit s.fb q ^^ decide (Claims.touches s x y n q % 2 = 1))) ∧
        ((∃ q, 1 ≤ Claims.touches s x y n q ∧ (Framebuffer.lit s.fb q = true ∨ 2 ≤ Claims.touches s x y n q)) →
          t.getV 0xF#4 = 1#8) ∧
        ((¬∃ q, 1 ≤ Claims.touches s x y n q ∧ (Framebuffer.lit s.fb q = true ∨ 2 ≤ Claims.touches s x y n q)) →
          t.getV 0xF#4 = 0#8) ∧
        t = { s with fb := t.fb, v := t.v, pc := s.pc + 2#16 } ∧ ∀ z, z ≠ 0xF#4 → t.getV z = s.getV z)

/-- R113: under `clip` the cells beyond the edge are neither drawn nor counted for the flag, and the bounds check is the
same. -/
def Obligations.DrawClipTogglesTheVisiblePart : Prop :=
  ∀ (s : State) (x y n : Nibble), s.Inv → s.params.drawEdge = .clip →
    (0 < n.toNat ∧ 0x1000 < s.i.toNat + n.toNat →
      Claims.Errs (.drw x y n) s .memoryOutOfBounds (encode (.drw x y n))) ∧
    (n.toNat = 0 ∨ s.i.toNat + n.toNat ≤ 0x1000 →
      ∃ t, exec (.drw x y n) s = .next t ∧
        (∀ q, Framebuffer.lit t.fb q = true ↔
          ¬(Framebuffer.lit s.fb q = true ↔ Claims.CoversClip s x y n q)) ∧
        ((∃ q, Claims.CoversClip s x y n q ∧ Framebuffer.lit s.fb q = true) → t.getV 0xF#4 = 1#8) ∧
        ((¬∃ q, Claims.CoversClip s x y n q ∧ Framebuffer.lit s.fb q = true) → t.getV 0xF#4 = 0#8) ∧
        t = { s with fb := t.fb, v := t.v, pc := s.pc + 2#16 } ∧ ∀ z, z ≠ 0xF#4 → t.getV z = s.getV z)

/-- R111, R114: with a height of 0 nothing is read, checked or drawn and VF is cleared; otherwise a sprite that runs past
0xFFF raises MemoryOutOfBounds before any cell changes. -/
def Obligations.DrawHeightZeroAndBounds : Prop :=
  ∀ (s : State) (x y n : Nibble),
    (∃ t, exec (.drw x y 0#4) s = .next t ∧ t.getV 0xF#4 = 0#8 ∧ Claims.OnlyRegister s t 0xF#4) ∧
    (0 < n.toNat ∧ 0x1000 < s.i.toNat + n.toNat →
      Claims.Errs (.drw x y n) s .memoryOutOfBounds (encode (.drw x y n)))

/-- R114: drawing the same sprite twice at the same place restores the framebuffer, whatever the edge policy and the size
of the display. On a blank framebuffer under `wrap` with no cell drawn twice, the first draw gives VF = 0, and the second
gives VF = 1 if the sprite has a 1 bit (the premises of C8RS's example, E6 of spec/95; log entry 7). -/
def Obligations.DrawTwiceRestores : Prop :=
  ∀ (s : State) (x y n : Nibble), s.Inv → x ≠ 0xF#4 → y ≠ 0xF#4 →
    (n.toNat = 0 ∨ s.i.toNat + n.toNat ≤ 0x1000) →
    ∃ t u, exec (.drw x y n) s = .next t ∧ exec (.drw x y n) t = .next u ∧ u.fb = s.fb ∧
      (s.fb = [] → s.params.drawEdge = .wrap → 8 ≤ s.params.displayW → n.toNat ≤ s.params.displayH →
        t.getV 0xF#4 = 0#8 ∧
        ((∃ r, r < n.toNat ∧ Memory.read s.mem (s.i.toNat + r) ≠ 0#8) → u.getV 0xF#4 = 1#8))

/-! ## Control flow -/

/-- R130: SYS raises DecodeError under `fault` and only advances PC under `nop`. -/
def Obligations.SysFollowsItsPolicy : Prop :=
  ∀ (s : State) (nnn : Addr),
    (s.params.sysPolicy = .fault →
      Claims.Errs (.sys nnn) s .decodeError (BitVec.ofNat 16 nnn.toNat)) ∧
    (s.params.sysPolicy = .nop → exec (.sys nnn) s = .next { s with pc := s.pc + 2#16 })

/-- R131: RET pops the return address into PC, and underflows on an empty stack. -/
def Obligations.ReturnPopsIntoPc : Prop :=
  ∀ s : State,
    (s.sp = 0 → Claims.Errs .ret s .stackUnderflow 0x00EE#16) ∧
    (s.sp ≠ 0 → exec .ret s = .next { s with sp := s.sp - 1, pc := s.stackAt (s.sp - 1) })

/-- R132: JP sets PC to NNN and changes nothing else. -/
def Obligations.JumpSetsPc : Prop :=
  ∀ (s : State) (nnn : Addr), exec (.jp nnn) s = .next { s with pc := BitVec.ofNat 16 nnn.toNat }

/-- R133: CALL pushes pc + 2 and sets PC to NNN, and overflows on a full stack. -/
def Obligations.CallPushesTheReturnAddress : Prop :=
  ∀ (s : State) (nnn : Addr),
    (s.sp = s.params.stackDepth →
      Claims.Errs (.call nnn) s .stackOverflow (0x2000#16 + BitVec.ofNat 16 nnn.toNat)) ∧
    (s.sp ≠ s.params.stackDepth → s.sp < s.stack.length →
      ∃ t, exec (.call nnn) s = .next t ∧ t.sp = s.sp + 1 ∧ t.pc = BitVec.ofNat 16 nnn.toNat ∧
        t.stack.length = s.stack.length ∧ t.stackAt s.sp = s.pc + 2#16 ∧
        (∀ k, k ≠ s.sp → t.stackAt k = s.stackAt k) ∧
        t = { s with stack := t.stack, sp := s.sp + 1, pc := t.pc })

/-- R134: JP V0 sets PC to NNN plus the offset register, not masked; the parameter selects V0 or V[NNN[11:8]]. -/
def Obligations.JumpWithOffsetIsNotMasked : Prop :=
  ∀ (s : State) (nnn : Addr), ∃ t, exec (.jpV0 nnn) s = .next t ∧ t = { s with pc := t.pc } ∧
    (s.params.jumpOffsetUsesVX = false → t.pc.toNat = nnn.toNat + (s.getV 0x0#4).toNat) ∧
    (s.params.jumpOffsetUsesVX = true →
      t.pc.toNat = nnn.toNat + (s.getV (BitVec.ofNat 4 (nnn.toNat / 0x100))).toNat)

/-- R135: a subroutine round trip: after a CALL, a RET from any state with the same call stack returns to the
instruction after the CALL and leaves the stack as deep as before it. -/
def Obligations.SubroutineRoundTrip : Prop :=
  ∀ (s : State) (nnn : Addr), s.sp < s.params.stackDepth → s.stack.length = s.params.stackDepth →
    ∃ t, exec (.call nnn) s = .next t ∧
      ∀ r : State, r.sp = t.sp → r.stack = t.stack →
        ∃ u, exec .ret r = .next u ∧ u.pc = s.pc + 2#16 ∧ u.sp = s.sp

/-! ## Registers, arithmetic and logic -/

/-- R150, R152: loads of an immediate and of a register. -/
def Obligations.RegisterLoads : Prop :=
  ∀ (s : State) (x y : Nibble) (nn : Byte),
    (∃ t, exec (.ldVxNn x nn) s = .next t ∧ t.getV x = nn ∧ Claims.OnlyRegister s t x) ∧
    (∃ t, exec (.ldVxVy x y) s = .next t ∧ t.getV x = s.getV y ∧ Claims.OnlyRegister s t x)

/-- R151: the sum with an immediate, truncated to 8 bits, and no flag: only VX changes. -/
def Obligations.AddImmediateWrapsWithoutFlag : Prop :=
  ∀ (s : State) (x : Nibble) (nn : Byte), ∃ t, exec (.addVxNn x nn) s = .next t ∧
    (t.getV x).toNat = ((s.getV x).toNat + nn.toNat) % 256 ∧ Claims.OnlyRegister s t x

/-- R153, R154, R155: the logic operations; VF is cleared last under LOGIC_RESETS_VF and otherwise an ordinary register. -/
def Obligations.LogicOperations : Prop :=
  ∀ (s : State) (x y : Nibble), ∀ p ∈ [(Instr.or x y, s.getV x ||| s.getV y),
      (Instr.and x y, s.getV x &&& s.getV y), (Instr.xor x y, s.getV x ^^^ s.getV y)],
    ∃ t, exec p.1 s = .next t ∧
      (s.params.logicResetsVF = false → t.getV x = p.2 ∧ Claims.OnlyRegister s t x) ∧
      (s.params.logicResetsVF = true →
        t.getV 0xF#4 = 0#8 ∧ (x ≠ 0xF#4 → t.getV x = p.2) ∧ Claims.OnlyRegisterAndFlag s t x)

/-- R156: the sum of two registers, truncated, then the carry in VF, which wins when X = 0xF. -/
def Obligations.AddRegistersSetsCarry : Prop :=
  ∀ (s : State) (x y : Nibble), ∃ t, exec (.addVxVy x y) s = .next t ∧
    (x ≠ 0xF#4 → (t.getV x).toNat = ((s.getV x).toNat + (s.getV y).toNat) % 256) ∧
    t.getV 0xF#4 = (if (s.getV x).toNat + (s.getV y).toNat > 0xFF then 1#8 else 0#8) ∧
    Claims.OnlyRegisterAndFlag s t x

/-- R157, R159: the two subtractions modulo 256, then NOT borrow in VF, 1 in the equal case. -/
def Obligations.SubtractionsSetNotBorrow : Prop :=
  ∀ (s : State) (x y : Nibble),
    (∃ t, exec (.sub x y) s = .next t ∧
      (x ≠ 0xF#4 → ((t.getV x).toNat + (s.getV y).toNat) % 256 = (s.getV x).toNat) ∧
      t.getV 0xF#4 = (if (s.getV x).toNat ≥ (s.getV y).toNat then 1#8 else 0#8) ∧
      Claims.OnlyRegisterAndFlag s t x) ∧
    (∃ t, exec (.subn x y) s = .next t ∧
      (x ≠ 0xF#4 → ((t.getV x).toNat + (s.getV x).toNat) % 256 = (s.getV y).toNat) ∧
      t.getV 0xF#4 = (if (s.getV y).toNat ≥ (s.getV x).toNat then 1#8 else 0#8) ∧
      Claims.OnlyRegisterAndFlag s t x)

/-- R158, R160: the shifts by one of VX, or of VY under SHIFT_USES_VY, then the bit shifted out in VF. -/
def Obligations.ShiftsMoveTheBitOutIntoVF : Prop :=
  ∀ (s : State) (x y : Nibble) (a : Byte),
    a = (if s.params.shiftUsesVY = true then s.getV y else s.getV x) →
    (∃ t, exec (.shr x y) s = .next t ∧
      (x ≠ 0xF#4 → (t.getV x).toNat = a.toNat / 2) ∧ (t.getV 0xF#4).toNat = a.toNat % 2 ∧
      Claims.OnlyRegisterAndFlag s t x) ∧
    (∃ t, exec (.shl x y) s = .next t ∧
      (x ≠ 0xF#4 → (t.getV x).toNat = a.toNat * 2 % 256) ∧ (t.getV 0xF#4).toNat = a.toNat / 128 ∧
      Claims.OnlyRegisterAndFlag s t x)

/-- R161: RND writes the oracle's draw AND NN, whatever the draw: a bit outside NN is 0 and NN = 0xFF passes the draw.
Each execution takes a fresh draw: the model counts it. -/
def Obligations.RandomIsTheDrawMasked : Prop :=
  ∀ (s : State) (x : Nibble) (nn : Byte), ∃ t, exec (.rnd x nn) s = .next t ∧
    (∀ b, b < 8 → (t.getV x).getLsbD b = ((Config.randByte s.draws).getLsbD b && nn.getLsbD b)) ∧
    (∀ z, z ≠ x → t.getV z = s.getV z) ∧
    t = { s with v := t.v, draws := s.draws + 1, pc := s.pc + 2#16 }

/-! ## Skips, timers and keys -/

/-- R180 to R183: the four conditional skips, and that they change nothing but PC. -/
def Obligations.ConditionalSkips : Prop :=
  ∀ (s : State) (x y : Nibble) (nn : Byte),
    exec (.seVxNn x nn) s = .next { s with pc := if s.getV x = nn then s.pc + 4#16 else s.pc + 2#16 } ∧
    exec (.sneVxNn x nn) s = .next { s with pc := if s.getV x ≠ nn then s.pc + 4#16 else s.pc + 2#16 } ∧
    exec (.seVxVy x y) s = .next { s with pc := if s.getV x = s.getV y then s.pc + 4#16 else s.pc + 2#16 } ∧
    exec (.sneVxVy x y) s = .next { s with pc := if s.getV x ≠ s.getV y then s.pc + 4#16 else s.pc + 2#16 }

/-- R213, R214: the key skips test the key of the low nibble of VX and change nothing but PC. -/
def Obligations.KeySkips : Prop :=
  ∀ (s : State) (x : Nibble),
    (s.key[(s.getV x).toNat % 16]'(Nat.mod_lt _ (Nat.zero_lt_succ 15)) = true →
      exec (.skp x) s = .next { s with pc := s.pc + 4#16 } ∧
      exec (.sknp x) s = .next { s with pc := s.pc + 2#16 }) ∧
    (s.key[(s.getV x).toNat % 16]'(Nat.mod_lt _ (Nat.zero_lt_succ 15)) = false →
      exec (.skp x) s = .next { s with pc := s.pc + 2#16 } ∧
      exec (.sknp x) s = .next { s with pc := s.pc + 4#16 })

/-- R215: FX0A takes the least pressed key; with none pressed the step changes nothing. -/
def Obligations.KeyWaitTakesTheLeastKey : Prop :=
  ∀ (s : State) (x : Nibble),
    (∀ k : Nibble, s.keyPressed k = true → (∀ j : Nibble, j.toNat < k.toNat → s.keyPressed j = false) →
      ∃ t, exec (.ldVxK x) s = .next t ∧ (t.getV x).toNat = k.toNat ∧ Claims.OnlyRegister s t x) ∧
    ((∀ k : Nibble, s.keyPressed k = false) → exec (.ldVxK x) s = .next s)

/-- R210, R211, R212: reading DT and setting DT and ST, with what each leaves unchanged. -/
def Obligations.TimerInstructions : Prop :=
  ∀ (s : State) (x : Nibble),
    (∃ t, exec (.ldVxDt x) s = .next t ∧ t.getV x = s.dt ∧ Claims.OnlyRegister s t x) ∧
    exec (.ldDtVx x) s = .next { s with dt := s.getV x, pc := s.pc + 2#16 } ∧
    exec (.ldStVx x) s = .next { s with st := s.getV x, pc := s.pc + 2#16 }

/-- R220: a tick takes one from each nonzero timer, holds at zero, and changes no other state. -/
def Obligations.TickHoldsAtZero : Prop :=
  ∀ s : State,
    (tickTimers s).dt.toNat = s.dt.toNat - 1 ∧ (tickTimers s).st.toNat = s.st.toNat - 1 ∧
    tickTimers s = { s with dt := (tickTimers s).dt, st := (tickTimers s).st }

/-! ## Index register and memory -/

/-- R190, R192: loading I with an address and with the address of a glyph. -/
def Obligations.IndexLoads : Prop :=
  ∀ (s : State) (nnn : Addr) (x : Nibble),
    exec (.ldINnn nnn) s = .next { s with i := BitVec.ofNat 16 nnn.toNat, pc := s.pc + 2#16 } ∧
    exec (.ldFVx x) s =
      .next { s with i := BitVec.ofNat 16 (s.params.fontBase + 5 * ((s.getV x).toNat % 16)), pc := s.pc + 2#16 }

/-- R191: the sum into I modulo 2^16, then the flag of a sum above 0x0FFF under ADD_INDEX_SETS_VF. -/
def Obligations.AddToIndexSetsOverflow : Prop :=
  ∀ (s : State) (x : Nibble), ∃ t, exec (.addIVx x) s = .next t ∧
    t.i.toNat = (s.i.toNat + (s.getV x).toNat) % 65536 ∧
    (s.params.addIndexSetsVF = true →
      t.getV 0xF#4 = (if s.i.toNat + (s.getV x).toNat > 0x0FFF then 1#8 else 0#8)) ∧
    (s.params.addIndexSetsVF = false → t.getV 0xF#4 = s.getV 0xF#4) ∧
    (∀ z, z ≠ 0xF#4 → t.getV z = s.getV z) ∧
    t = { s with i := t.i, v := t.v, pc := s.pc + 2#16 }

/-- R194: the three decimal digits of VX at I, every other byte and register unchanged; beyond 0xFFF an error. -/
def Obligations.BcdStoresThreeDigits : Prop :=
  ∀ (s : State) (x : Nibble), Memory.wf s.mem →
    (0xFFF < s.i.toNat + 2 → Claims.Errs (.ldBVx x) s .memoryOutOfBounds (encode (.ldBVx x))) ∧
    (s.i.toNat + 2 ≤ 0xFFF →
      ∃ t, exec (.ldBVx x) s = .next t ∧
        (Memory.read t.mem s.i.toNat).toNat = (s.getV x).toNat / 100 ∧
        (Memory.read t.mem (s.i.toNat + 1)).toNat = (s.getV x).toNat / 10 % 10 ∧
        (Memory.read t.mem (s.i.toNat + 2)).toNat = (s.getV x).toNat % 10 ∧
        (∀ a, ¬(s.i.toNat ≤ a ∧ a ≤ s.i.toNat + 2) → Memory.read t.mem a = Memory.read s.mem a) ∧
        t = { s with mem := t.mem, pc := s.pc + 2#16 })

/-- R195: V0 to VX at I in ascending order, every other byte and every register unchanged; I moves only under
LOADSTORE_INCREMENTS_I; beyond 0xFFF an error. -/
def Obligations.StoreRegistersAtI : Prop :=
  ∀ (s : State) (x : Nibble), Memory.wf s.mem →
    (0xFFF < s.i.toNat + x.toNat → Claims.Errs (.ldMiVx x) s .memoryOutOfBounds (encode (.ldMiVx x))) ∧
    (s.i.toNat + x.toNat ≤ 0xFFF →
      ∃ t, exec (.ldMiVx x) s = .next t ∧
        (∀ k : Nibble, k.toNat ≤ x.toNat → Memory.read t.mem (s.i.toNat + k.toNat) = s.getV k) ∧
        (∀ a, ¬(s.i.toNat ≤ a ∧ a ≤ s.i.toNat + x.toNat) → Memory.read t.mem a = Memory.read s.mem a) ∧
        t.i.toNat = s.i.toNat + (if s.params.loadStoreIncrementsI = true then x.toNat + 1 else 0) ∧
        t = { s with mem := t.mem, i := t.i, pc := s.pc + 2#16 })

/-- R196: V0 to VX from I in ascending order, every other register and all of memory unchanged; I moves only under
LOADSTORE_INCREMENTS_I; beyond 0xFFF an error. -/
def Obligations.LoadRegistersFromI : Prop :=
  ∀ (s : State) (x : Nibble),
    (0xFFF < s.i.toNat + x.toNat → Claims.Errs (.ldVxMi x) s .memoryOutOfBounds (encode (.ldVxMi x))) ∧
    (s.i.toNat + x.toNat ≤ 0xFFF →
      ∃ t, exec (.ldVxMi x) s = .next t ∧
        (∀ k : Nibble, k.toNat ≤ x.toNat → t.getV k = Memory.read s.mem (s.i.toNat + k.toNat)) ∧
        (∀ k : Nibble, x.toNat < k.toNat → t.getV k = s.getV k) ∧
        t.i.toNat = s.i.toNat + (if s.params.loadStoreIncrementsI = true then x.toNat + 1 else 0) ∧
        t = { s with v := t.v, i := t.i, pc := s.pc + 2#16 })

/-- R65, R55: code that FX55 wrote is what the next fetch at its address reads, V0 as the high byte. -/
def Obligations.StoredCodeIsFetched : Prop :=
  ∀ (s : State) (x : Nibble), Memory.wf s.mem → s.fault = none → 1 ≤ x.toNat → s.i.toNat + x.toNat ≤ 0xFFF →
    ∃ t, exec (.ldMiVx x) s = .next t ∧
      ∀ i : Instr, decode (s.getV 0x0#4 ++ s.getV 0x1#4) = .op i →
        step { t with pc := s.i } = exec i { t with pc := s.i }

/-! ## Reset, load and the host -/

/-- R41, R260, R261: every piece of state at its reset value, whatever the parameters. -/
def Obligations.ResetValues : Prop :=
  State.reset = State.resetWith Params.standard ∧
  ∀ p : Params,
    (State.resetWith p).params = p ∧ (∀ a, Memory.read (State.resetWith p).mem a = 0#8) ∧
    (∀ x : Nibble, (State.resetWith p).getV x = 0#8) ∧ (State.resetWith p).i = 0x0000#16 ∧
    (State.resetWith p).pc = 0x200#16 ∧ (State.resetWith p).sp = 0 ∧
    (∀ k, (State.resetWith p).stackAt k = 0x0000#16) ∧
    (State.resetWith p).dt = 0#8 ∧ (State.resetWith p).st = 0#8 ∧
    (∀ q, Framebuffer.lit (State.resetWith p).fb q = false) ∧
    (∀ k : Nibble, (State.resetWith p).keyPressed k = false) ∧ (State.resetWith p).fault = none

/-- R262, R263, R264: `load` in its order, on a reset machine that has not stepped, places the font and the program
verbatim, sets PC to 0x200 and changes nothing else; a program over 3584 bytes is refused. A second `load`, or a `load`
after a step, is refused, and nothing makes it possible again: construction allows `load`, `load` and a step end that, and
no operation restores it. Whether `load` is in order stands beside the machine (log entry 5). -/
def Obligations.LoadOncePlacesFontAndProgram : Prop :=
  (∀ (p : Params) (h : Session), Session.construct p = .next h → h = ⟨State.resetWith p, true⟩) ∧
  (∀ (o : HostOp) (h g : Session), hostOp o h = .next g →
    g.loadable = true → h.loadable = true ∧ o ≠ .step ∧ ∀ program, o ≠ .load program) ∧
  ∀ (h : Session) (program : List Byte), hostOp (.load program) h = load program h ∧
    (h.loadable = false → load program h = .refused .loadOutOfOrder) ∧
    (h.loadable = true → 3584 < program.length → load program h = .refused .programTooLong) ∧
    (h.loadable = true → h.machine.params.wf → Memory.wf h.machine.mem → program.length ≤ 3584 →
      ∃ t, load program h = .next ⟨t, false⟩ ∧ t = { h.machine with mem := t.mem, pc := 0x200#16 } ∧
        (∀ k (hk : k < h.machine.params.font.length),
          Memory.read t.mem (h.machine.params.fontBase + k) = h.machine.params.font[k]) ∧
        (∀ k (hk : k < program.length), Memory.read t.mem (0x200 + k) = program[k]) ∧
        (∀ a, ¬(h.machine.params.fontBase ≤ a ∧ a < h.machine.params.fontBase + 80) →
          ¬(0x200 ≤ a ∧ a < 0x200 + program.length) → Memory.read t.mem a = Memory.read h.machine.mem a))

/-- R248, R249, R250: the snapshot is the grid of lit cells, a key change sets one key and is refused outside 0..15, the
sound is active exactly while ST is not 0, and the two reads change no state. -/
def Obligations.HostReadsAndKeys : Prop :=
  ∀ (s : State),
    (∀ h : Session, hostOp .framebufferSnapshot h = .next h ∧ hostOp .soundActive h = .next h) ∧
    (framebufferSnapshot s).length = s.params.displayH ∧
    (∀ row ∈ framebufferSnapshot s, row.length = s.params.displayW) ∧
    (∀ x y, x < s.params.displayW → y < s.params.displayH →
      ((framebufferSnapshot s).getD y []).getD x false = Framebuffer.lit s.fb ⟨x, y⟩) ∧
    (∀ k pressed, 16 ≤ k → setKeyState k pressed s = .refused .noSuchKey) ∧
    (∀ (k : Nibble) (pressed : Bool), ∃ t, setKeyState k.toNat pressed s = .next t ∧
      t.keyPressed k = pressed ∧ (∀ j, j ≠ k → t.keyPressed j = s.keyPressed j) ∧ t = { s with key := t.key }) ∧
    (soundActive s = true ↔ s.st.toNat ≠ 0)

/-- R272: at an idle end, a jump to itself, every later step changes nothing. -/
def Obligations.IdleEndStays : Prop :=
  ∀ s : State, s.idle → step s = .next s
end

