-- ==== Sys2Proof/Laws/Decode.lean ====
section
/-! SUPPORT. The laws of words: the fields of a packed word, a word put together from its fields, what a mask keeps of a
packed word, and the two bytes of a word. -/

namespace Sys2Proof

/-! ## The fields of a packed word -/

@[simp] theorem opClass_packNNN (c : Nibble) (nnn : Addr) : opClass (packNNN c nnn) = c := by
  apply BitVec.eq_of_getLsbD_eq
  intro k hk
  simp only [packNNN, opClass, BitVec.getLsbD_extractLsb', BitVec.getLsbD_append]
  interval_cases k <;> simp

@[simp] theorem fieldNNN_packNNN (c : Nibble) (nnn : Addr) : fieldNNN (packNNN c nnn) = nnn := by
  apply BitVec.eq_of_getLsbD_eq
  intro k hk
  simp only [packNNN, fieldNNN, BitVec.getLsbD_extractLsb', BitVec.getLsbD_append]
  interval_cases k <;> simp

@[simp] theorem opClass_packXNN (c x : Nibble) (nn : Byte) : opClass (packXNN c x nn) = c := by
  apply BitVec.eq_of_getLsbD_eq
  intro k hk
  simp only [packXNN, opClass, BitVec.getLsbD_extractLsb', BitVec.getLsbD_append]
  interval_cases k <;> simp

@[simp] theorem fieldX_packXNN (c x : Nibble) (nn : Byte) : fieldX (packXNN c x nn) = x := by
  apply BitVec.eq_of_getLsbD_eq
  intro k hk
  simp only [packXNN, fieldX, BitVec.getLsbD_extractLsb', BitVec.getLsbD_append]
  interval_cases k <;> simp

@[simp] theorem fieldNN_packXNN (c x : Nibble) (nn : Byte) : fieldNN (packXNN c x nn) = nn := by
  apply BitVec.eq_of_getLsbD_eq
  intro k hk
  simp only [packXNN, fieldNN, BitVec.getLsbD_extractLsb', BitVec.getLsbD_append]
  interval_cases k <;> simp

@[simp] theorem opClass_packXYN (c x y n : Nibble) : opClass (packXYN c x y n) = c := by
  apply BitVec.eq_of_getLsbD_eq
  intro k hk
  simp only [packXYN, opClass, BitVec.getLsbD_extractLsb', BitVec.getLsbD_append]
  interval_cases k <;> simp

@[simp] theorem fieldX_packXYN (c x y n : Nibble) : fieldX (packXYN c x y n) = x := by
  apply BitVec.eq_of_getLsbD_eq
  intro k hk
  simp only [packXYN, fieldX, BitVec.getLsbD_extractLsb', BitVec.getLsbD_append]
  interval_cases k <;> simp

@[simp] theorem fieldY_packXYN (c x y n : Nibble) : fieldY (packXYN c x y n) = y := by
  apply BitVec.eq_of_getLsbD_eq
  intro k hk
  simp only [packXYN, fieldY, BitVec.getLsbD_extractLsb', BitVec.getLsbD_append]
  interval_cases k <;> simp

@[simp] theorem fieldN_packXYN (c x y n : Nibble) : fieldN (packXYN c x y n) = n := by
  apply BitVec.eq_of_getLsbD_eq
  intro k hk
  simp only [packXYN, fieldN, BitVec.getLsbD_extractLsb', BitVec.getLsbD_append]
  interval_cases k <;> simp

/-! ## A word from its fields -/

/-- A word is its fields put back together (R81). -/
theorem packNNN_fields (w : Word) : packNNN (opClass w) (fieldNNN w) = w := by
  apply BitVec.eq_of_getLsbD_eq
  intro k hk
  simp only [packNNN, opClass, fieldNNN, BitVec.getLsbD_extractLsb', BitVec.getLsbD_append]
  interval_cases k <;> simp

/-- A word is its fields put back together (R81). -/
theorem packXNN_fields (w : Word) : packXNN (opClass w) (fieldX w) (fieldNN w) = w := by
  apply BitVec.eq_of_getLsbD_eq
  intro k hk
  simp only [packXNN, opClass, fieldX, fieldNN, BitVec.getLsbD_extractLsb', BitVec.getLsbD_append]
  interval_cases k <;> simp

/-- A word is its fields put back together (R81). -/
theorem packXYN_fields (w : Word) : packXYN (opClass w) (fieldX w) (fieldY w) (fieldN w) = w := by
  apply BitVec.eq_of_getLsbD_eq
  intro k hk
  simp only [packXYN, opClass, fieldX, fieldY, fieldN, BitVec.getLsbD_extractLsb', BitVec.getLsbD_append]
  interval_cases k <;> simp

/-- The word of the two bytes of a word (R55). -/
@[simp] theorem wordOfBytes_bytes (w : Word) : wordOfBytes (highByte w) (lowByte w) = w := by
  apply BitVec.eq_of_getLsbD_eq
  intro k hk
  simp only [wordOfBytes, highByte, lowByte, BitVec.getLsbD_extractLsb', BitVec.getLsbD_append]
  interval_cases k <;> simp

/-! ## What a mask keeps of a packed word -/

/-- The mask 0xF000 keeps the class. -/
theorem packNNN_and_class (c : Nibble) (nnn : Addr) : packNNN c nnn &&& 0xF000#16 = packNNN c 0#12 := by
  apply BitVec.eq_of_getLsbD_eq
  intro k hk
  simp only [packNNN, BitVec.getLsbD_and, BitVec.getLsbD_append]
  interval_cases k <;> simp

/-- The mask 0xF0FF drops X. -/
theorem packXNN_and_ends (c x : Nibble) (nn : Byte) : packXNN c x nn &&& 0xF0FF#16 = packXNN c 0#4 nn := by
  apply BitVec.eq_of_getLsbD_eq
  intro k hk
  simp only [packXNN, BitVec.getLsbD_and, BitVec.getLsbD_append]
  interval_cases k <;> simp

/-- The mask 0xF00F drops X and Y. -/
theorem packXYN_and_ends (c x y n : Nibble) : packXYN c x y n &&& 0xF00F#16 = packXYN c 0#4 0#4 n := by
  apply BitVec.eq_of_getLsbD_eq
  intro k hk
  simp only [packXYN, BitVec.getLsbD_and, BitVec.getLsbD_append]
  interval_cases k <;> simp

/-- The mask 0xF000 keeps the class. -/
theorem packXNN_and_class (c x : Nibble) (nn : Byte) : packXNN c x nn &&& 0xF000#16 = packNNN c 0#12 :=
  packNNN_and_class c (x ++ nn : Addr)

/-- The mask 0xF000 keeps the class. -/
theorem packXYN_and_class (c x y n : Nibble) : packXYN c x y n &&& 0xF000#16 = packNNN c 0#12 :=
  packNNN_and_class c (x ++ (y ++ n : Byte) : Addr)

/-! ## Words as numbers -/

/-- A packed word as a number. -/
theorem toNat_packNNN (c : Nibble) (nnn : Addr) : (packNNN c nnn).toNat = c.toNat * 0x1000 + nnn.toNat := by
  have h : (packNNN c nnn).toNat = c.toNat <<< 12 ||| nnn.toNat := BitVec.toNat_append c nnn
  have hn : nnn.toNat < 2 ^ 12 := nnn.isLt
  rw [h, ← Nat.shiftLeft_add_eq_or_of_lt hn, Nat.shiftLeft_eq]

/-- A packed word as a number. -/
theorem toNat_packXNN (c x : Nibble) (nn : Byte) :
    (packXNN c x nn).toNat = c.toNat * 0x1000 + (x.toNat * 0x100 + nn.toNat) := by
  have h : (x ++ nn : Addr).toNat = x.toNat <<< 8 ||| nn.toNat := BitVec.toNat_append x nn
  have hn : nn.toNat < 2 ^ 8 := nn.isLt
  rw [show packXNN c x nn = packNNN c (x ++ nn) from rfl, toNat_packNNN, h,
    ← Nat.shiftLeft_add_eq_or_of_lt hn, Nat.shiftLeft_eq]

/-- The word of two bytes as a number: big-endian (R55, R56). -/
theorem toNat_wordOfBytes (hi lo : Byte) : (wordOfBytes hi lo).toNat = hi.toNat * 0x100 + lo.toNat := by
  have h : (wordOfBytes hi lo).toNat = hi.toNat <<< 8 ||| lo.toNat := BitVec.toNat_append hi lo
  have hn : lo.toNat < 2 ^ 8 := lo.isLt
  rw [h, ← Nat.shiftLeft_add_eq_or_of_lt hn, Nat.shiftLeft_eq]

/-! ## The opcode map, one class at a time -/

/-- Every nibble is one of the sixteen. -/
theorem nibble_cases (c : Nibble) : c = 0x0#4 ∨ c = 0x1#4 ∨ c = 0x2#4 ∨ c = 0x3#4 ∨ c = 0x4#4 ∨ c = 0x5#4 ∨ c = 0x6#4 ∨ c = 0x7#4 ∨ c = 0x8#4 ∨ c = 0x9#4 ∨ c = 0xA#4 ∨ c = 0xB#4 ∨ c = 0xC#4 ∨ c = 0xD#4 ∨ c = 0xE#4 ∨ c = 0xF#4 := by
  revert c; decide

/-- Class 0x0 (R91). -/
theorem decode_class0 (w : Word) (h : opClass w = 0x0#4) : decode w = decodeClass0 w := by
  simp [decode, h]

/-- Class 0x1 (R91). -/
theorem decode_class1 (w : Word) (h : opClass w = 0x1#4) : decode w = .op (.jp (fieldNNN w)) := by
  simp [decode, h]

/-- Class 0x2 (R91). -/
theorem decode_class2 (w : Word) (h : opClass w = 0x2#4) : decode w = .op (.call (fieldNNN w)) := by
  simp [decode, h]

/-- Class 0x3 (R91). -/
theorem decode_class3 (w : Word) (h : opClass w = 0x3#4) : decode w = .op (.seVxNn (fieldX w) (fieldNN w)) := by
  simp [decode, h]

/-- Class 0x4 (R91). -/
theorem decode_class4 (w : Word) (h : opClass w = 0x4#4) : decode w = .op (.sneVxNn (fieldX w) (fieldNN w)) := by
  simp [decode, h]

/-- Class 0x5 (R91). -/
theorem decode_class5 (w : Word) (h : opClass w = 0x5#4) : decode w = if fieldN w = 0x0#4 then .op (.seVxVy (fieldX w) (fieldY w)) else .unknown w := by
  simp [decode, h]

/-- Class 0x6 (R91). -/
theorem decode_class6 (w : Word) (h : opClass w = 0x6#4) : decode w = .op (.ldVxNn (fieldX w) (fieldNN w)) := by
  simp [decode, h]

/-- Class 0x7 (R91). -/
theorem decode_class7 (w : Word) (h : opClass w = 0x7#4) : decode w = .op (.addVxNn (fieldX w) (fieldNN w)) := by
  simp [decode, h]

/-- Class 0x8 (R91). -/
theorem decode_class8 (w : Word) (h : opClass w = 0x8#4) : decode w = decodeClass8 w := by
  simp [decode, h]

/-- Class 0x9 (R91). -/
theorem decode_class9 (w : Word) (h : opClass w = 0x9#4) : decode w = if fieldN w = 0x0#4 then .op (.sneVxVy (fieldX w) (fieldY w)) else .unknown w := by
  simp [decode, h]

/-- Class 0xA (R91). -/
theorem decode_classA (w : Word) (h : opClass w = 0xA#4) : decode w = .op (.ldINnn (fieldNNN w)) := by
  simp [decode, h]

/-- Class 0xB (R91). -/
theorem decode_classB (w : Word) (h : opClass w = 0xB#4) : decode w = .op (.jpV0 (fieldNNN w)) := by
  simp [decode, h]

/-- Class 0xC (R91). -/
theorem decode_classC (w : Word) (h : opClass w = 0xC#4) : decode w = .op (.rnd (fieldX w) (fieldNN w)) := by
  simp [decode, h]

/-- Class 0xD (R91). -/
theorem decode_classD (w : Word) (h : opClass w = 0xD#4) : decode w = .op (.drw (fieldX w) (fieldY w) (fieldN w)) := by
  simp [decode, h]

/-- Class 0xE (R91). -/
theorem decode_classE (w : Word) (h : opClass w = 0xE#4) : decode w = decodeClassE w := by
  simp [decode, h]

/-- Class 0xF (R91). -/
theorem decode_classF (w : Word) (h : opClass w = 0xF#4) : decode w = decodeClassF w := by
  simp [decode, h]

end Sys2Proof
end

