-- ==== Sys2Proof/Laws/Framebuffer.lean ====
section
/-! SUPPORT. The laws of the framebuffer: toggling a cell, that toggling keeps the canonical form, and what drawing a list
of cells does to each cell. -/

namespace Sys2Proof.Machine

/-- Lit cells are listed in strict row-major order. -/
abbrev Framebuffer.sorted (fb : Framebuffer) : Prop := fb.Pairwise Pixel.before

theorem Pixel.before_irrefl (p : Pixel) : ¬ p.before p := by
  unfold Pixel.before; omega

theorem Pixel.before_trans {p q r : Pixel} (h : p.before q) (h' : q.before r) : p.before r := by
  unfold Pixel.before at *; omega

/-- Row-major order is total. -/
theorem Pixel.before_total {p q : Pixel} (h : ¬ p.before q) (h' : p ≠ q) : q.before p := by
  cases p; cases q
  simp only [Pixel.before, ne_eq, Pixel.mk.injEq] at *
  omega

/-- A cell before every listed one is not lit. -/
theorem Framebuffer.not_mem_of_before {fb : Framebuffer} {p : Pixel} (h : ∀ q ∈ fb, p.before q) : p ∉ fb :=
  fun hp => Pixel.before_irrefl p (h p hp)

/-- What a toggle does to membership: the cell changes, every other cell is as before. -/
theorem Framebuffer.mem_toggle {fb : Framebuffer} (p q : Pixel) (h : Framebuffer.sorted fb) :
    q ∈ Framebuffer.toggle p fb ↔ (if q = p then p ∉ fb else q ∈ fb) := by
  induction fb with
  | nil => by_cases hq : q = p <;> simp [Framebuffer.toggle, hq]
  | cons c fb ih =>
    obtain ⟨hc, hfb⟩ := List.pairwise_cons.mp h
    unfold Framebuffer.toggle
    by_cases hb : p.before c
    · have hp : p ∉ c :: fb := Framebuffer.not_mem_of_before (fun d hd => by
        rcases List.mem_cons.mp hd with rfl | hd
        · exact hb
        · exact Pixel.before_trans hb (hc d hd))
      simp only [hb, if_true]
      by_cases hq : q = p
      · subst hq; simp [hp]
      · simp [hq]
    · by_cases he : p = c
      · subst he
        have hp : p ∉ fb := Framebuffer.not_mem_of_before hc
        simp only [hb, if_false, if_true]
        by_cases hq : q = p
        · subst hq; simp [hp]
        · simp [hq]
      · simp only [hb, he, if_false, List.mem_cons, ih hfb]
        by_cases hq : q = p
        · subst hq; simp [he]
        · simp [hq]

/-- A toggle keeps the strict row-major order. -/
theorem Framebuffer.sorted_toggle {fb : Framebuffer} (p : Pixel) (h : Framebuffer.sorted fb) :
    Framebuffer.sorted (Framebuffer.toggle p fb) := by
  induction fb with
  | nil => simp [Framebuffer.toggle, Framebuffer.sorted]
  | cons c fb ih =>
    obtain ⟨hc, hfb⟩ := List.pairwise_cons.mp h
    unfold Framebuffer.toggle
    by_cases hb : p.before c
    · simp only [hb, if_true]
      refine List.pairwise_cons.mpr ⟨fun d hd => ?_, h⟩
      rcases List.mem_cons.mp hd with rfl | hd
      · exact hb
      · exact Pixel.before_trans hb (hc d hd)
    · by_cases he : p = c
      · subst he; simpa [hb] using hfb
      · simp only [hb, he, if_false]
        refine List.pairwise_cons.mpr ⟨fun d hd => ?_, ih hfb⟩
        rw [Framebuffer.mem_toggle p d hfb] at hd
        by_cases hdp : d = p
        · subst hdp; exact Pixel.before_total hb he
        · exact hc d (by simpa [hdp] using hd)

/-- A toggle changes its own cell and no other (R111). -/
theorem Framebuffer.lit_toggle {fb : Framebuffer} (p q : Pixel) (h : Framebuffer.sorted fb) :
    Framebuffer.lit (Framebuffer.toggle p fb) q = (if q = p then !Framebuffer.lit fb q else Framebuffer.lit fb q) := by
  have := Framebuffer.mem_toggle p q h
  by_cases hq : q = p
  · subst hq; simp only [if_true] at this; simp [Framebuffer.lit, this]
  · simp only [hq, if_false] at this; simp [Framebuffer.lit, this, hq]

/-- A toggle of a cell of the grid keeps the canonical form. -/
theorem Framebuffer.wf_toggle {p : Params} {fb : Framebuffer} {c : Pixel} (h : Framebuffer.wf p fb)
    (hc : c.x < p.displayW ∧ c.y < p.displayH) : Framebuffer.wf p (Framebuffer.toggle c fb) := by
  refine ⟨Framebuffer.sorted_toggle c h.1, fun d hd => ?_⟩
  rw [Framebuffer.mem_toggle c d h.1] at hd
  by_cases hdc : d = c
  · subst hdc; exact hc
  · exact h.2 d (by simpa [hdc] using hd)

/-- Drawing cells of the grid keeps the canonical form. -/
theorem wf_drawCells {p : Params} {fb : Framebuffer} (b : Bool) {ps : List Pixel} (h : Framebuffer.wf p fb)
    (hps : ∀ c ∈ ps, c.x < p.displayW ∧ c.y < p.displayH) : Framebuffer.wf p (drawCells fb b ps).1 := by
  induction ps generalizing fb b with
  | nil => exact h
  | cons c ps ih =>
    exact ih _ (Framebuffer.wf_toggle h (hps c (by simp))) (fun d hd => hps d (by simp [hd]))

theorem sorted_drawCells {fb : Framebuffer} (b : Bool) (ps : List Pixel) (h : Framebuffer.sorted fb) :
    Framebuffer.sorted (drawCells fb b ps).1 := by
  induction ps generalizing fb b with
  | nil => exact h
  | cons c ps ih => exact ih _ (Framebuffer.sorted_toggle c h)

/-- After a drawing a cell is lit when it was lit before and is toggled an even number of times, or unlit and odd. -/
theorem lit_drawCells {fb : Framebuffer} (b : Bool) (ps : List Pixel) (q : Pixel) (h : Framebuffer.sorted fb) :
    Framebuffer.lit (drawCells fb b ps).1 q = (Framebuffer.lit fb q ^^ decide (ps.count q % 2 = 1)) := by
  induction ps generalizing fb b with
  | nil => simp [drawCells]
  | cons c ps ih =>
    simp only [drawCells, ih _ (Framebuffer.sorted_toggle c h), Framebuffer.lit_toggle c q h, List.count_cons]
    by_cases hq : q = c
    · subst hq
      rcases Nat.mod_two_eq_zero_or_one (ps.count q) with h0 | h0 <;>
        cases Framebuffer.lit fb q <;> simp [h0, Nat.add_mod]
    · have hc : ¬ c = q := fun e => hq e.symm
      simp [hq, hc]

/-- Where no cell is drawn twice, the collision flag says whether some drawn cell was lit before. -/
theorem collision_drawCells {fb : Framebuffer} (b : Bool) {ps : List Pixel} (h : Framebuffer.sorted fb)
    (hps : ps.Nodup) : (drawCells fb b ps).2 = (b || ps.any (fun q => Framebuffer.lit fb q)) := by
  induction ps generalizing fb b with
  | nil => simp [drawCells]
  | cons c ps ih =>
    obtain ⟨hc, hnd⟩ := List.nodup_cons.mp hps
    simp only [drawCells, ih _ (Framebuffer.sorted_toggle c h) hnd, List.any_cons, Bool.or_assoc]
    congr 2
    rw [Bool.eq_iff_iff]
    simp only [List.any_eq_true]
    refine exists_congr fun d => and_congr_right fun hd => ?_
    have hdc : d ≠ c := fun e => hc (by rw [← e]; exact hd)
    rw [Framebuffer.lit_toggle c d h, if_neg hdc]

/-- Whatever the cells drawn, the collision flag says whether some drawn cell was lit before or is drawn twice. -/
theorem collision_drawCells_iff {fb : Framebuffer} (b : Bool) (ps : List Pixel) (h : Framebuffer.sorted fb) :
    (drawCells fb b ps).2 = true ↔
      b = true ∨ ∃ q, 1 ≤ ps.count q ∧ (Framebuffer.lit fb q = true ∨ 2 ≤ ps.count q) := by
  induction ps generalizing fb b with
  | nil => simp [drawCells]
  | cons c ps ih =>
    simp only [drawCells, ih _ (Framebuffer.sorted_toggle c h), Bool.or_eq_true, or_assoc]
    refine or_congr_right ⟨?_, ?_⟩
    · rintro (hc | ⟨q, h1, h2⟩)
      · exact ⟨c, by simp, .inl hc⟩
      · refine ⟨q, by rw [List.count_cons]; exact Nat.le_add_right_of_le h1, ?_⟩
        rw [Framebuffer.lit_toggle c q h] at h2
        by_cases hq : q = c
        · subst hq; right; rw [List.count_cons_self]; omega
        · rw [if_neg hq] at h2
          exact h2.imp_right (fun h3 => by rw [List.count_cons]; exact Nat.le_add_right_of_le h3)
    · rintro ⟨q, h1, h2⟩
      by_cases hq : q = c
      · subst hq
        rw [List.count_cons_self] at h1 h2
        by_cases hl : Framebuffer.lit fb q = true
        · exact .inl hl
        · refine .inr ⟨q, by rcases h2 with h2 | h2 <;> [exact absurd h2 hl; omega], .inl ?_⟩
          rw [Framebuffer.lit_toggle q q h]; simpa using hl
      · have hc : ¬ c = q := fun e => hq e.symm
        rw [List.count_cons_of_ne hc] at h1 h2
        refine .inr ⟨q, h1, ?_⟩
        rwa [Framebuffer.lit_toggle c q h, if_neg hq]

/-- No cell is listed twice. -/
theorem Framebuffer.nodup_of_sorted {fb : Framebuffer} (h : Framebuffer.sorted fb) : fb.Nodup :=
  List.nodup_iff_pairwise_ne.mpr (h.imp (fun {a b} hb (e : a = b) => Pixel.before_irrefl b (by rw [e] at hb; exact hb)))

/-- Two canonical framebuffers with the same lit cells are equal. -/
theorem Framebuffer.ext_lit {fb fb' : Framebuffer} (h : Framebuffer.sorted fb) (h' : Framebuffer.sorted fb')
    (hl : ∀ q, Framebuffer.lit fb q = Framebuffer.lit fb' q) : fb = fb' := by
  have hm : ∀ q, q ∈ fb ↔ q ∈ fb' := fun q => by simpa [Framebuffer.lit] using hl q
  have nd : fb.Nodup := Framebuffer.nodup_of_sorted h
  have nd' : fb'.Nodup := Framebuffer.nodup_of_sorted h'
  refine List.Perm.eq_of_pairwise (le := Pixel.before) ?_ h h' ((List.perm_ext_iff_of_nodup nd nd').mpr hm)
  intro a b _ _ hab hba
  exact absurd (Pixel.before_trans hab hba) (Pixel.before_irrefl a)

end Sys2Proof.Machine
end

