-- ==== Sys2Proof/Laws/Memory.lean ====
section
/-! SUPPORT. The laws of memory: a read after a write, and that every memory operation keeps the canonical form. -/

namespace Sys2Proof.Machine

/-- Addresses rise strictly. -/
abbrev Memory.sorted (m : Memory) : Prop := m.Pairwise (fun c d => c.1 < d.1)

/-- An address below every listed one reads 0x00. -/
theorem Memory.read_below {m : Memory} {a : Nat} (h : ∀ c ∈ m, a < c.1) : Memory.read m a = 0#8 := by
  induction m with
  | nil => rfl
  | cons c m ih =>
    have hc : a < c.1 := h c (by simp)
    have hm : ∀ d ∈ m, a < d.1 := fun d hd => h d (by simp [hd])
    simp [Memory.read, ih hm, Nat.ne_of_gt hc]

/-- What a write lists was listed before, or is the written byte, which is then not 0x00. -/
theorem Memory.mem_write {m : Memory} {a : Nat} {v : Byte} {c : Host.Cell} (h : c ∈ Memory.write m a v) :
    c ∈ m ∨ (c = (a, v) ∧ v ≠ 0#8) := by
  induction m with
  | nil => by_cases hv : v = 0#8 <;> simp_all [Memory.write]
  | cons d m ih =>
    obtain ⟨k, w⟩ := d
    unfold Memory.write at h
    by_cases hlt : a < k
    · by_cases hv : v = 0#8
      · exact .inl (by simpa [hlt, hv] using h)
      · simp only [hlt, hv, if_true, if_false, List.mem_cons] at h
        rcases h with h | h
        · exact .inr ⟨h, hv⟩
        · exact .inl (by simpa using h)
    · by_cases heq : a = k
      · by_cases hv : v = 0#8
        · exact .inl (by simp_all)
        · subst heq
          simp only [lt_irrefl, hv, if_true, if_false, List.mem_cons] at h
          rcases h with h | h
          · exact .inr ⟨h, hv⟩
          · exact .inl (by simp [h])
      · simp only [hlt, heq, if_false, List.mem_cons] at h
        rcases h with h | h
        · exact .inl (by simp [h])
        · rcases ih h with h' | h'
          · exact .inl (by simp [h'])
          · exact .inr h'

/-- A write keeps the addresses strictly rising. -/
theorem Memory.sorted_write {m : Memory} (a : Nat) (v : Byte) (h : Memory.sorted m) :
    Memory.sorted (Memory.write m a v) := by
  induction m with
  | nil => by_cases hv : v = 0#8 <;> simp [Memory.write, hv, Memory.sorted]
  | cons d m ih =>
    obtain ⟨k, w⟩ := d
    obtain ⟨hk, hm⟩ := List.pairwise_cons.mp h
    unfold Memory.write
    by_cases hlt : a < k
    · by_cases hv : v = 0#8
      · simpa [hlt, hv] using h
      · simp only [hlt, hv, if_true, if_false]
        refine List.pairwise_cons.mpr ⟨fun c hc => ?_, h⟩
        rcases List.mem_cons.mp hc with rfl | hc
        · exact hlt
        · exact lt_trans hlt (hk c hc)
    · by_cases heq : a = k
      · subst heq
        by_cases hv : v = 0#8
        · simpa [hv] using hm
        · simpa [hv] using List.pairwise_cons.mpr ⟨hk, hm⟩
      · simp only [hlt, heq, if_false]
        refine List.pairwise_cons.mpr ⟨fun c hc => ?_, ih hm⟩
        rcases Memory.mem_write hc with hc | ⟨rfl, -⟩
        · exact hk c hc
        · show k < a; omega

/-- Every memory write inside `MEM` keeps the canonical form. -/
theorem Memory.wf_write {m : Memory} {a : Nat} (v : Byte) (h : Memory.wf m) (ha : a < memSize) :
    Memory.wf (Memory.write m a v) := by
  refine ⟨Memory.sorted_write a v h.1, fun c hc => ?_⟩
  rcases Memory.mem_write hc with hc | ⟨rfl, hv⟩
  · exact h.2 c hc
  · exact ⟨ha, hv⟩

/-- A read after a write: the byte written at its address, every other byte as before. -/
theorem Memory.read_write {m : Memory} (a : Nat) (v : Byte) (b : Nat) (h : Memory.sorted m) :
    Memory.read (Memory.write m a v) b = if a = b then v else Memory.read m b := by
  induction m with
  | nil => by_cases hv : v = 0#8 <;> by_cases hb : a = b <;> simp [Memory.write, Memory.read, hv, hb]
  | cons d m ih =>
    obtain ⟨k, w⟩ := d
    obtain ⟨hk, hm⟩ := List.pairwise_cons.mp h
    unfold Memory.write
    by_cases hlt : a < k
    · by_cases hv : v = 0#8
      · subst hv
        simp only [hlt, if_true]
        by_cases hb : a = b
        · subst hb
          simp only [if_true]
          exact Memory.read_below (fun c hc => by
            rcases List.mem_cons.mp hc with rfl | hc
            · exact hlt
            · exact lt_trans hlt (hk c hc))
        · simp [hb]
      · simp [hlt, hv, Memory.read]
    · by_cases heq : a = k
      · subst heq
        by_cases hv : v = 0#8
        · subst hv
          simp only [lt_irrefl, if_true, if_false]
          by_cases hb : a = b
          · subst hb
            simp [Memory.read_below hk]
          · simp [Memory.read, hb]
        · by_cases hb : a = b <;> simp [hv, Memory.read, hb]
      · simp only [hlt, heq, if_false, Memory.read, ih hm]
        by_cases hkb : k = b
        · subst hkb; simp [heq]
        · simp [hkb]

theorem Memory.sorted_writeBytes {m : Memory} (a : Nat) (bs : List Byte) (h : Memory.sorted m) :
    Memory.sorted (Memory.writeBytes m a bs) := by
  induction bs generalizing m a with
  | nil => exact h
  | cons b bs ih => exact ih (a + 1) (Memory.sorted_write a b h)

/-- Every sequence of writes inside `MEM` keeps the canonical form. -/
theorem Memory.wf_writeBytes {m : Memory} {a : Nat} (bs : List Byte) (h : Memory.wf m)
    (ha : a + bs.length ≤ memSize) : Memory.wf (Memory.writeBytes m a bs) := by
  induction bs generalizing m a with
  | nil => exact h
  | cons b bs ih =>
    simp only [List.length_cons] at ha
    exact ih (Memory.wf_write b h (by omega)) (by omega)

/-- A read after a sequence of writes: the bytes written in their range, every other byte as before. -/
theorem Memory.read_writeBytes {m : Memory} (a : Nat) (bs : List Byte) (b : Nat) (h : Memory.sorted m) :
    Memory.read (Memory.writeBytes m a bs) b =
      if a ≤ b ∧ b < a + bs.length then bs.getD (b - a) 0#8 else Memory.read m b := by
  induction bs generalizing m a with
  | nil => simp only [Memory.writeBytes, List.length_nil]; rw [if_neg (by omega)]
  | cons v bs ih =>
    simp only [Memory.writeBytes, ih (a + 1) (Memory.sorted_write a v h), Memory.read_write a v b h,
      List.length_cons]
    by_cases hab : a = b
    · subst hab; simp
    · by_cases hin : a + 1 ≤ b ∧ b < a + 1 + bs.length
      · have h2 : a ≤ b ∧ b < a + (bs.length + 1) := by omega
        have h3 : b - a = (b - (a + 1)) + 1 := by omega
        simp [hin, h2, h3]
      · have h2 : ¬(a ≤ b ∧ b < a + (bs.length + 1)) := by omega
        simp only [hin, h2, hab, if_false]

@[simp] theorem Memory.length_readBytes (m : Memory) (a n : Nat) : (Memory.readBytes m a n).length = n := by
  induction n generalizing a with
  | zero => rfl
  | succ n ih => simp [Memory.readBytes, ih]

/-- The `k`-th byte of a sequence of reads. -/
theorem Memory.getD_readBytes (m : Memory) (a n k : Nat) (hk : k < n) :
    (Memory.readBytes m a n).getD k 0#8 = Memory.read m (a + k) := by
  induction n generalizing a k with
  | zero => omega
  | succ n ih =>
    cases k with
    | zero => simp [Memory.readBytes]
    | succ k =>
      have := ih (a + 1) k (by omega)
      simpa [Memory.readBytes, Nat.add_comm, Nat.add_left_comm] using this

/-- Reset memory has the canonical form. -/
theorem Memory.wf_reset (p : Params) : Memory.wf (State.resetWith p).mem := by
  simp [State.resetWith, Memory.wf]

end Sys2Proof.Machine
end

