-- ==== Sys2Proof/Laws/State.lean ====
section
/-! SUPPORT. One lemma per field per update of the state, true by rfl, so that no proof unfolds a record update; then the
updates that a parameter switches, and reading a general register after writing one. -/

namespace Sys2Proof.Machine

variable (s : State)

@[simp] theorem State.setV_params (x : Nibble) (b : Byte) : (s.setV x b).params = s.params := rfl
@[simp] theorem State.setV_mem (x : Nibble) (b : Byte) : (s.setV x b).mem = s.mem := rfl
@[simp] theorem State.setV_v (x : Nibble) (b : Byte) : (s.setV x b).v = s.v.set x.toNat b x.isLt := rfl
@[simp] theorem State.setV_i (x : Nibble) (b : Byte) : (s.setV x b).i = s.i := rfl
@[simp] theorem State.setV_pc (x : Nibble) (b : Byte) : (s.setV x b).pc = s.pc := rfl
@[simp] theorem State.setV_sp (x : Nibble) (b : Byte) : (s.setV x b).sp = s.sp := rfl
@[simp] theorem State.setV_stack (x : Nibble) (b : Byte) : (s.setV x b).stack = s.stack := rfl
@[simp] theorem State.setV_dt (x : Nibble) (b : Byte) : (s.setV x b).dt = s.dt := rfl
@[simp] theorem State.setV_st (x : Nibble) (b : Byte) : (s.setV x b).st = s.st := rfl
@[simp] theorem State.setV_fb (x : Nibble) (b : Byte) : (s.setV x b).fb = s.fb := rfl
@[simp] theorem State.setV_key (x : Nibble) (b : Byte) : (s.setV x b).key = s.key := rfl
@[simp] theorem State.setV_fault (x : Nibble) (b : Byte) : (s.setV x b).fault = s.fault := rfl
@[simp] theorem State.setV_draws (x : Nibble) (b : Byte) : (s.setV x b).draws = s.draws := rfl

@[simp] theorem State.setRegs_params (w : Vector Byte 16) : (s.setRegs w).params = s.params := rfl
@[simp] theorem State.setRegs_mem (w : Vector Byte 16) : (s.setRegs w).mem = s.mem := rfl
@[simp] theorem State.setRegs_v (w : Vector Byte 16) : (s.setRegs w).v = w := rfl
@[simp] theorem State.setRegs_i (w : Vector Byte 16) : (s.setRegs w).i = s.i := rfl
@[simp] theorem State.setRegs_pc (w : Vector Byte 16) : (s.setRegs w).pc = s.pc := rfl
@[simp] theorem State.setRegs_sp (w : Vector Byte 16) : (s.setRegs w).sp = s.sp := rfl
@[simp] theorem State.setRegs_stack (w : Vector Byte 16) : (s.setRegs w).stack = s.stack := rfl
@[simp] theorem State.setRegs_dt (w : Vector Byte 16) : (s.setRegs w).dt = s.dt := rfl
@[simp] theorem State.setRegs_st (w : Vector Byte 16) : (s.setRegs w).st = s.st := rfl
@[simp] theorem State.setRegs_fb (w : Vector Byte 16) : (s.setRegs w).fb = s.fb := rfl
@[simp] theorem State.setRegs_key (w : Vector Byte 16) : (s.setRegs w).key = s.key := rfl
@[simp] theorem State.setRegs_fault (w : Vector Byte 16) : (s.setRegs w).fault = s.fault := rfl
@[simp] theorem State.setRegs_draws (w : Vector Byte 16) : (s.setRegs w).draws = s.draws := rfl

@[simp] theorem State.setI_params (w : Word) : (s.setI w).params = s.params := rfl
@[simp] theorem State.setI_mem (w : Word) : (s.setI w).mem = s.mem := rfl
@[simp] theorem State.setI_v (w : Word) : (s.setI w).v = s.v := rfl
@[simp] theorem State.setI_i (w : Word) : (s.setI w).i = w := rfl
@[simp] theorem State.setI_pc (w : Word) : (s.setI w).pc = s.pc := rfl
@[simp] theorem State.setI_sp (w : Word) : (s.setI w).sp = s.sp := rfl
@[simp] theorem State.setI_stack (w : Word) : (s.setI w).stack = s.stack := rfl
@[simp] theorem State.setI_dt (w : Word) : (s.setI w).dt = s.dt := rfl
@[simp] theorem State.setI_st (w : Word) : (s.setI w).st = s.st := rfl
@[simp] theorem State.setI_fb (w : Word) : (s.setI w).fb = s.fb := rfl
@[simp] theorem State.setI_key (w : Word) : (s.setI w).key = s.key := rfl
@[simp] theorem State.setI_fault (w : Word) : (s.setI w).fault = s.fault := rfl
@[simp] theorem State.setI_draws (w : Word) : (s.setI w).draws = s.draws := rfl

@[simp] theorem State.setPC_params (w : Word) : (s.setPC w).params = s.params := rfl
@[simp] theorem State.setPC_mem (w : Word) : (s.setPC w).mem = s.mem := rfl
@[simp] theorem State.setPC_v (w : Word) : (s.setPC w).v = s.v := rfl
@[simp] theorem State.setPC_i (w : Word) : (s.setPC w).i = s.i := rfl
@[simp] theorem State.setPC_pc (w : Word) : (s.setPC w).pc = w := rfl
@[simp] theorem State.setPC_sp (w : Word) : (s.setPC w).sp = s.sp := rfl
@[simp] theorem State.setPC_stack (w : Word) : (s.setPC w).stack = s.stack := rfl
@[simp] theorem State.setPC_dt (w : Word) : (s.setPC w).dt = s.dt := rfl
@[simp] theorem State.setPC_st (w : Word) : (s.setPC w).st = s.st := rfl
@[simp] theorem State.setPC_fb (w : Word) : (s.setPC w).fb = s.fb := rfl
@[simp] theorem State.setPC_key (w : Word) : (s.setPC w).key = s.key := rfl
@[simp] theorem State.setPC_fault (w : Word) : (s.setPC w).fault = s.fault := rfl
@[simp] theorem State.setPC_draws (w : Word) : (s.setPC w).draws = s.draws := rfl

@[simp] theorem State.setMem_params (m : Memory) : (s.setMem m).params = s.params := rfl
@[simp] theorem State.setMem_mem (m : Memory) : (s.setMem m).mem = m := rfl
@[simp] theorem State.setMem_v (m : Memory) : (s.setMem m).v = s.v := rfl
@[simp] theorem State.setMem_i (m : Memory) : (s.setMem m).i = s.i := rfl
@[simp] theorem State.setMem_pc (m : Memory) : (s.setMem m).pc = s.pc := rfl
@[simp] theorem State.setMem_sp (m : Memory) : (s.setMem m).sp = s.sp := rfl
@[simp] theorem State.setMem_stack (m : Memory) : (s.setMem m).stack = s.stack := rfl
@[simp] theorem State.setMem_dt (m : Memory) : (s.setMem m).dt = s.dt := rfl
@[simp] theorem State.setMem_st (m : Memory) : (s.setMem m).st = s.st := rfl
@[simp] theorem State.setMem_fb (m : Memory) : (s.setMem m).fb = s.fb := rfl
@[simp] theorem State.setMem_key (m : Memory) : (s.setMem m).key = s.key := rfl
@[simp] theorem State.setMem_fault (m : Memory) : (s.setMem m).fault = s.fault := rfl
@[simp] theorem State.setMem_draws (m : Memory) : (s.setMem m).draws = s.draws := rfl

@[simp] theorem State.setDT_params (b : Byte) : (s.setDT b).params = s.params := rfl
@[simp] theorem State.setDT_mem (b : Byte) : (s.setDT b).mem = s.mem := rfl
@[simp] theorem State.setDT_v (b : Byte) : (s.setDT b).v = s.v := rfl
@[simp] theorem State.setDT_i (b : Byte) : (s.setDT b).i = s.i := rfl
@[simp] theorem State.setDT_pc (b : Byte) : (s.setDT b).pc = s.pc := rfl
@[simp] theorem State.setDT_sp (b : Byte) : (s.setDT b).sp = s.sp := rfl
@[simp] theorem State.setDT_stack (b : Byte) : (s.setDT b).stack = s.stack := rfl
@[simp] theorem State.setDT_dt (b : Byte) : (s.setDT b).dt = b := rfl
@[simp] theorem State.setDT_st (b : Byte) : (s.setDT b).st = s.st := rfl
@[simp] theorem State.setDT_fb (b : Byte) : (s.setDT b).fb = s.fb := rfl
@[simp] theorem State.setDT_key (b : Byte) : (s.setDT b).key = s.key := rfl
@[simp] theorem State.setDT_fault (b : Byte) : (s.setDT b).fault = s.fault := rfl
@[simp] theorem State.setDT_draws (b : Byte) : (s.setDT b).draws = s.draws := rfl

@[simp] theorem State.setST_params (b : Byte) : (s.setST b).params = s.params := rfl
@[simp] theorem State.setST_mem (b : Byte) : (s.setST b).mem = s.mem := rfl
@[simp] theorem State.setST_v (b : Byte) : (s.setST b).v = s.v := rfl
@[simp] theorem State.setST_i (b : Byte) : (s.setST b).i = s.i := rfl
@[simp] theorem State.setST_pc (b : Byte) : (s.setST b).pc = s.pc := rfl
@[simp] theorem State.setST_sp (b : Byte) : (s.setST b).sp = s.sp := rfl
@[simp] theorem State.setST_stack (b : Byte) : (s.setST b).stack = s.stack := rfl
@[simp] theorem State.setST_dt (b : Byte) : (s.setST b).dt = s.dt := rfl
@[simp] theorem State.setST_st (b : Byte) : (s.setST b).st = b := rfl
@[simp] theorem State.setST_fb (b : Byte) : (s.setST b).fb = s.fb := rfl
@[simp] theorem State.setST_key (b : Byte) : (s.setST b).key = s.key := rfl
@[simp] theorem State.setST_fault (b : Byte) : (s.setST b).fault = s.fault := rfl
@[simp] theorem State.setST_draws (b : Byte) : (s.setST b).draws = s.draws := rfl

@[simp] theorem State.setFB_params (fb : Framebuffer) : (s.setFB fb).params = s.params := rfl
@[simp] theorem State.setFB_mem (fb : Framebuffer) : (s.setFB fb).mem = s.mem := rfl
@[simp] theorem State.setFB_v (fb : Framebuffer) : (s.setFB fb).v = s.v := rfl
@[simp] theorem State.setFB_i (fb : Framebuffer) : (s.setFB fb).i = s.i := rfl
@[simp] theorem State.setFB_pc (fb : Framebuffer) : (s.setFB fb).pc = s.pc := rfl
@[simp] theorem State.setFB_sp (fb : Framebuffer) : (s.setFB fb).sp = s.sp := rfl
@[simp] theorem State.setFB_stack (fb : Framebuffer) : (s.setFB fb).stack = s.stack := rfl
@[simp] theorem State.setFB_dt (fb : Framebuffer) : (s.setFB fb).dt = s.dt := rfl
@[simp] theorem State.setFB_st (fb : Framebuffer) : (s.setFB fb).st = s.st := rfl
@[simp] theorem State.setFB_fb (fb : Framebuffer) : (s.setFB fb).fb = fb := rfl
@[simp] theorem State.setFB_key (fb : Framebuffer) : (s.setFB fb).key = s.key := rfl
@[simp] theorem State.setFB_fault (fb : Framebuffer) : (s.setFB fb).fault = s.fault := rfl
@[simp] theorem State.setFB_draws (fb : Framebuffer) : (s.setFB fb).draws = s.draws := rfl

@[simp] theorem State.setKeys_params (k : Vector Bool 16) : (s.setKeys k).params = s.params := rfl
@[simp] theorem State.setKeys_mem (k : Vector Bool 16) : (s.setKeys k).mem = s.mem := rfl
@[simp] theorem State.setKeys_v (k : Vector Bool 16) : (s.setKeys k).v = s.v := rfl
@[simp] theorem State.setKeys_i (k : Vector Bool 16) : (s.setKeys k).i = s.i := rfl
@[simp] theorem State.setKeys_pc (k : Vector Bool 16) : (s.setKeys k).pc = s.pc := rfl
@[simp] theorem State.setKeys_sp (k : Vector Bool 16) : (s.setKeys k).sp = s.sp := rfl
@[simp] theorem State.setKeys_stack (k : Vector Bool 16) : (s.setKeys k).stack = s.stack := rfl
@[simp] theorem State.setKeys_dt (k : Vector Bool 16) : (s.setKeys k).dt = s.dt := rfl
@[simp] theorem State.setKeys_st (k : Vector Bool 16) : (s.setKeys k).st = s.st := rfl
@[simp] theorem State.setKeys_fb (k : Vector Bool 16) : (s.setKeys k).fb = s.fb := rfl
@[simp] theorem State.setKeys_key (k : Vector Bool 16) : (s.setKeys k).key = k := rfl
@[simp] theorem State.setKeys_fault (k : Vector Bool 16) : (s.setKeys k).fault = s.fault := rfl
@[simp] theorem State.setKeys_draws (k : Vector Bool 16) : (s.setKeys k).draws = s.draws := rfl

@[simp] theorem State.setFault_params (f : Option ErrorRecord) : (s.setFault f).params = s.params := rfl
@[simp] theorem State.setFault_mem (f : Option ErrorRecord) : (s.setFault f).mem = s.mem := rfl
@[simp] theorem State.setFault_v (f : Option ErrorRecord) : (s.setFault f).v = s.v := rfl
@[simp] theorem State.setFault_i (f : Option ErrorRecord) : (s.setFault f).i = s.i := rfl
@[simp] theorem State.setFault_pc (f : Option ErrorRecord) : (s.setFault f).pc = s.pc := rfl
@[simp] theorem State.setFault_sp (f : Option ErrorRecord) : (s.setFault f).sp = s.sp := rfl
@[simp] theorem State.setFault_stack (f : Option ErrorRecord) : (s.setFault f).stack = s.stack := rfl
@[simp] theorem State.setFault_dt (f : Option ErrorRecord) : (s.setFault f).dt = s.dt := rfl
@[simp] theorem State.setFault_st (f : Option ErrorRecord) : (s.setFault f).st = s.st := rfl
@[simp] theorem State.setFault_fb (f : Option ErrorRecord) : (s.setFault f).fb = s.fb := rfl
@[simp] theorem State.setFault_key (f : Option ErrorRecord) : (s.setFault f).key = s.key := rfl
@[simp] theorem State.setFault_fault (f : Option ErrorRecord) : (s.setFault f).fault = f := rfl
@[simp] theorem State.setFault_draws (f : Option ErrorRecord) : (s.setFault f).draws = s.draws := rfl

@[simp] theorem State.countDraw_params : (s.countDraw).params = s.params := rfl
@[simp] theorem State.countDraw_mem : (s.countDraw).mem = s.mem := rfl
@[simp] theorem State.countDraw_v : (s.countDraw).v = s.v := rfl
@[simp] theorem State.countDraw_i : (s.countDraw).i = s.i := rfl
@[simp] theorem State.countDraw_pc : (s.countDraw).pc = s.pc := rfl
@[simp] theorem State.countDraw_sp : (s.countDraw).sp = s.sp := rfl
@[simp] theorem State.countDraw_stack : (s.countDraw).stack = s.stack := rfl
@[simp] theorem State.countDraw_dt : (s.countDraw).dt = s.dt := rfl
@[simp] theorem State.countDraw_st : (s.countDraw).st = s.st := rfl
@[simp] theorem State.countDraw_fb : (s.countDraw).fb = s.fb := rfl
@[simp] theorem State.countDraw_key : (s.countDraw).key = s.key := rfl
@[simp] theorem State.countDraw_fault : (s.countDraw).fault = s.fault := rfl
@[simp] theorem State.countDraw_draws : (s.countDraw).draws = s.draws + 1 := rfl

@[simp] theorem State.push_params (w : Word) : (s.push w).params = s.params := rfl
@[simp] theorem State.push_mem (w : Word) : (s.push w).mem = s.mem := rfl
@[simp] theorem State.push_v (w : Word) : (s.push w).v = s.v := rfl
@[simp] theorem State.push_i (w : Word) : (s.push w).i = s.i := rfl
@[simp] theorem State.push_pc (w : Word) : (s.push w).pc = s.pc := rfl
@[simp] theorem State.push_sp (w : Word) : (s.push w).sp = s.sp + 1 := rfl
@[simp] theorem State.push_stack (w : Word) : (s.push w).stack = s.stack.set s.sp w := rfl
@[simp] theorem State.push_dt (w : Word) : (s.push w).dt = s.dt := rfl
@[simp] theorem State.push_st (w : Word) : (s.push w).st = s.st := rfl
@[simp] theorem State.push_fb (w : Word) : (s.push w).fb = s.fb := rfl
@[simp] theorem State.push_key (w : Word) : (s.push w).key = s.key := rfl
@[simp] theorem State.push_fault (w : Word) : (s.push w).fault = s.fault := rfl
@[simp] theorem State.push_draws (w : Word) : (s.push w).draws = s.draws := rfl

@[simp] theorem State.pop_params : (s.pop).params = s.params := rfl
@[simp] theorem State.pop_mem : (s.pop).mem = s.mem := rfl
@[simp] theorem State.pop_v : (s.pop).v = s.v := rfl
@[simp] theorem State.pop_i : (s.pop).i = s.i := rfl
@[simp] theorem State.pop_pc : (s.pop).pc = s.pc := rfl
@[simp] theorem State.pop_sp : (s.pop).sp = s.sp - 1 := rfl
@[simp] theorem State.pop_stack : (s.pop).stack = s.stack := rfl
@[simp] theorem State.pop_dt : (s.pop).dt = s.dt := rfl
@[simp] theorem State.pop_st : (s.pop).st = s.st := rfl
@[simp] theorem State.pop_fb : (s.pop).fb = s.fb := rfl
@[simp] theorem State.pop_key : (s.pop).key = s.key := rfl
@[simp] theorem State.pop_fault : (s.pop).fault = s.fault := rfl
@[simp] theorem State.pop_draws : (s.pop).draws = s.draws := rfl

@[simp] theorem State.advance_params : (s.advance).params = s.params := rfl
@[simp] theorem State.advance_mem : (s.advance).mem = s.mem := rfl
@[simp] theorem State.advance_v : (s.advance).v = s.v := rfl
@[simp] theorem State.advance_i : (s.advance).i = s.i := rfl
@[simp] theorem State.advance_pc : (s.advance).pc = s.pc + 2#16 := rfl
@[simp] theorem State.advance_sp : (s.advance).sp = s.sp := rfl
@[simp] theorem State.advance_stack : (s.advance).stack = s.stack := rfl
@[simp] theorem State.advance_dt : (s.advance).dt = s.dt := rfl
@[simp] theorem State.advance_st : (s.advance).st = s.st := rfl
@[simp] theorem State.advance_fb : (s.advance).fb = s.fb := rfl
@[simp] theorem State.advance_key : (s.advance).key = s.key := rfl
@[simp] theorem State.advance_fault : (s.advance).fault = s.fault := rfl
@[simp] theorem State.advance_draws : (s.advance).draws = s.draws := rfl

@[simp] theorem State.skipIf_params (c : Bool) : (s.skipIf c).params = s.params := rfl
@[simp] theorem State.skipIf_mem (c : Bool) : (s.skipIf c).mem = s.mem := rfl
@[simp] theorem State.skipIf_v (c : Bool) : (s.skipIf c).v = s.v := rfl
@[simp] theorem State.skipIf_i (c : Bool) : (s.skipIf c).i = s.i := rfl
@[simp] theorem State.skipIf_pc (c : Bool) : (s.skipIf c).pc = if c then s.pc + 4#16 else s.pc + 2#16 := rfl
@[simp] theorem State.skipIf_sp (c : Bool) : (s.skipIf c).sp = s.sp := rfl
@[simp] theorem State.skipIf_stack (c : Bool) : (s.skipIf c).stack = s.stack := rfl
@[simp] theorem State.skipIf_dt (c : Bool) : (s.skipIf c).dt = s.dt := rfl
@[simp] theorem State.skipIf_st (c : Bool) : (s.skipIf c).st = s.st := rfl
@[simp] theorem State.skipIf_fb (c : Bool) : (s.skipIf c).fb = s.fb := rfl
@[simp] theorem State.skipIf_key (c : Bool) : (s.skipIf c).key = s.key := rfl
@[simp] theorem State.skipIf_fault (c : Bool) : (s.skipIf c).fault = s.fault := rfl
@[simp] theorem State.skipIf_draws (c : Bool) : (s.skipIf c).draws = s.draws := rfl

@[simp] theorem State.writeFlag_params (c : Bool) : (s.writeFlag c).params = s.params := rfl
@[simp] theorem State.writeFlag_mem (c : Bool) : (s.writeFlag c).mem = s.mem := rfl
@[simp] theorem State.writeFlag_v (c : Bool) : (s.writeFlag c).v = s.v.set regF.toNat (if c then 1#8 else 0#8) regF.isLt := rfl
@[simp] theorem State.writeFlag_i (c : Bool) : (s.writeFlag c).i = s.i := rfl
@[simp] theorem State.writeFlag_pc (c : Bool) : (s.writeFlag c).pc = s.pc := rfl
@[simp] theorem State.writeFlag_sp (c : Bool) : (s.writeFlag c).sp = s.sp := rfl
@[simp] theorem State.writeFlag_stack (c : Bool) : (s.writeFlag c).stack = s.stack := rfl
@[simp] theorem State.writeFlag_dt (c : Bool) : (s.writeFlag c).dt = s.dt := rfl
@[simp] theorem State.writeFlag_st (c : Bool) : (s.writeFlag c).st = s.st := rfl
@[simp] theorem State.writeFlag_fb (c : Bool) : (s.writeFlag c).fb = s.fb := rfl
@[simp] theorem State.writeFlag_key (c : Bool) : (s.writeFlag c).key = s.key := rfl
@[simp] theorem State.writeFlag_fault (c : Bool) : (s.writeFlag c).fault = s.fault := rfl
@[simp] theorem State.writeFlag_draws (c : Bool) : (s.writeFlag c).draws = s.draws := rfl

@[simp] theorem State.storeAtI_params (bs : List Byte) : (s.storeAtI bs).params = s.params := rfl
@[simp] theorem State.storeAtI_mem (bs : List Byte) : (s.storeAtI bs).mem = Memory.writeBytes s.mem s.i.toNat bs := rfl
@[simp] theorem State.storeAtI_v (bs : List Byte) : (s.storeAtI bs).v = s.v := rfl
@[simp] theorem State.storeAtI_i (bs : List Byte) : (s.storeAtI bs).i = s.i := rfl
@[simp] theorem State.storeAtI_pc (bs : List Byte) : (s.storeAtI bs).pc = s.pc := rfl
@[simp] theorem State.storeAtI_sp (bs : List Byte) : (s.storeAtI bs).sp = s.sp := rfl
@[simp] theorem State.storeAtI_stack (bs : List Byte) : (s.storeAtI bs).stack = s.stack := rfl
@[simp] theorem State.storeAtI_dt (bs : List Byte) : (s.storeAtI bs).dt = s.dt := rfl
@[simp] theorem State.storeAtI_st (bs : List Byte) : (s.storeAtI bs).st = s.st := rfl
@[simp] theorem State.storeAtI_fb (bs : List Byte) : (s.storeAtI bs).fb = s.fb := rfl
@[simp] theorem State.storeAtI_key (bs : List Byte) : (s.storeAtI bs).key = s.key := rfl
@[simp] theorem State.storeAtI_fault (bs : List Byte) : (s.storeAtI bs).fault = s.fault := rfl
@[simp] theorem State.storeAtI_draws (bs : List Byte) : (s.storeAtI bs).draws = s.draws := rfl

/-! ## Updates that a parameter switches -/

@[simp] theorem State.logicFlag_params : (s.logicFlag).params = s.params := by
  unfold State.logicFlag; split <;> rfl
@[simp] theorem State.logicFlag_mem : (s.logicFlag).mem = s.mem := by
  unfold State.logicFlag; split <;> rfl
@[simp] theorem State.logicFlag_i : (s.logicFlag).i = s.i := by
  unfold State.logicFlag; split <;> rfl
@[simp] theorem State.logicFlag_pc : (s.logicFlag).pc = s.pc := by
  unfold State.logicFlag; split <;> rfl
@[simp] theorem State.logicFlag_sp : (s.logicFlag).sp = s.sp := by
  unfold State.logicFlag; split <;> rfl
@[simp] theorem State.logicFlag_stack : (s.logicFlag).stack = s.stack := by
  unfold State.logicFlag; split <;> rfl
@[simp] theorem State.logicFlag_dt : (s.logicFlag).dt = s.dt := by
  unfold State.logicFlag; split <;> rfl
@[simp] theorem State.logicFlag_st : (s.logicFlag).st = s.st := by
  unfold State.logicFlag; split <;> rfl
@[simp] theorem State.logicFlag_fb : (s.logicFlag).fb = s.fb := by
  unfold State.logicFlag; split <;> rfl
@[simp] theorem State.logicFlag_key : (s.logicFlag).key = s.key := by
  unfold State.logicFlag; split <;> rfl
@[simp] theorem State.logicFlag_fault : (s.logicFlag).fault = s.fault := by
  unfold State.logicFlag; split <;> rfl
@[simp] theorem State.logicFlag_draws : (s.logicFlag).draws = s.draws := by
  unfold State.logicFlag; split <;> rfl

@[simp] theorem State.indexFlag_params (c : Bool) : (s.indexFlag c).params = s.params := by
  unfold State.indexFlag; split <;> rfl
@[simp] theorem State.indexFlag_mem (c : Bool) : (s.indexFlag c).mem = s.mem := by
  unfold State.indexFlag; split <;> rfl
@[simp] theorem State.indexFlag_i (c : Bool) : (s.indexFlag c).i = s.i := by
  unfold State.indexFlag; split <;> rfl
@[simp] theorem State.indexFlag_pc (c : Bool) : (s.indexFlag c).pc = s.pc := by
  unfold State.indexFlag; split <;> rfl
@[simp] theorem State.indexFlag_sp (c : Bool) : (s.indexFlag c).sp = s.sp := by
  unfold State.indexFlag; split <;> rfl
@[simp] theorem State.indexFlag_stack (c : Bool) : (s.indexFlag c).stack = s.stack := by
  unfold State.indexFlag; split <;> rfl
@[simp] theorem State.indexFlag_dt (c : Bool) : (s.indexFlag c).dt = s.dt := by
  unfold State.indexFlag; split <;> rfl
@[simp] theorem State.indexFlag_st (c : Bool) : (s.indexFlag c).st = s.st := by
  unfold State.indexFlag; split <;> rfl
@[simp] theorem State.indexFlag_fb (c : Bool) : (s.indexFlag c).fb = s.fb := by
  unfold State.indexFlag; split <;> rfl
@[simp] theorem State.indexFlag_key (c : Bool) : (s.indexFlag c).key = s.key := by
  unfold State.indexFlag; split <;> rfl
@[simp] theorem State.indexFlag_fault (c : Bool) : (s.indexFlag c).fault = s.fault := by
  unfold State.indexFlag; split <;> rfl
@[simp] theorem State.indexFlag_draws (c : Bool) : (s.indexFlag c).draws = s.draws := by
  unfold State.indexFlag; split <;> rfl

@[simp] theorem State.bumpIndex_params (x : Nibble) : (s.bumpIndex x).params = s.params := by
  unfold State.bumpIndex; split <;> rfl
@[simp] theorem State.bumpIndex_mem (x : Nibble) : (s.bumpIndex x).mem = s.mem := by
  unfold State.bumpIndex; split <;> rfl
@[simp] theorem State.bumpIndex_v (x : Nibble) : (s.bumpIndex x).v = s.v := by
  unfold State.bumpIndex; split <;> rfl
@[simp] theorem State.bumpIndex_pc (x : Nibble) : (s.bumpIndex x).pc = s.pc := by
  unfold State.bumpIndex; split <;> rfl
@[simp] theorem State.bumpIndex_sp (x : Nibble) : (s.bumpIndex x).sp = s.sp := by
  unfold State.bumpIndex; split <;> rfl
@[simp] theorem State.bumpIndex_stack (x : Nibble) : (s.bumpIndex x).stack = s.stack := by
  unfold State.bumpIndex; split <;> rfl
@[simp] theorem State.bumpIndex_dt (x : Nibble) : (s.bumpIndex x).dt = s.dt := by
  unfold State.bumpIndex; split <;> rfl
@[simp] theorem State.bumpIndex_st (x : Nibble) : (s.bumpIndex x).st = s.st := by
  unfold State.bumpIndex; split <;> rfl
@[simp] theorem State.bumpIndex_fb (x : Nibble) : (s.bumpIndex x).fb = s.fb := by
  unfold State.bumpIndex; split <;> rfl
@[simp] theorem State.bumpIndex_key (x : Nibble) : (s.bumpIndex x).key = s.key := by
  unfold State.bumpIndex; split <;> rfl
@[simp] theorem State.bumpIndex_fault (x : Nibble) : (s.bumpIndex x).fault = s.fault := by
  unfold State.bumpIndex; split <;> rfl
@[simp] theorem State.bumpIndex_draws (x : Nibble) : (s.bumpIndex x).draws = s.draws := by
  unfold State.bumpIndex; split <;> rfl

/-! ## General registers -/

/-- A register write leaves every other register alone (R22). -/
theorem State.getV_setV (x z : Nibble) (b : Byte) : (s.setV x b).getV z = if x = z then b else s.getV z := by
  have h : x.toNat = z.toNat ↔ x = z := BitVec.toNat_inj
  simp [State.getV, State.setV, Vector.getElem_set, h]

@[simp] theorem State.getV_setV_self (x : Nibble) (b : Byte) : (s.setV x b).getV x = b := by
  simp [State.getV_setV]

/-- After a flag write VF holds the flag and every other register is as before (R24). -/
theorem State.getV_writeFlag (z : Nibble) (c : Bool) :
    (s.writeFlag c).getV z = if z = regF then (if c then 1#8 else 0#8) else s.getV z := by
  simp [State.writeFlag, State.getV_setV, eq_comm]

@[simp] theorem State.getV_setI (z : Nibble) (w : Word) : (s.setI w).getV z = s.getV z := rfl
@[simp] theorem State.getV_setPC (z : Nibble) (w : Word) : (s.setPC w).getV z = s.getV z := rfl
@[simp] theorem State.getV_setMem (z : Nibble) (m : Memory) : (s.setMem m).getV z = s.getV z := rfl
@[simp] theorem State.getV_setDT (z : Nibble) (b : Byte) : (s.setDT b).getV z = s.getV z := rfl
@[simp] theorem State.getV_setST (z : Nibble) (b : Byte) : (s.setST b).getV z = s.getV z := rfl
@[simp] theorem State.getV_setFB (z : Nibble) (fb : Framebuffer) : (s.setFB fb).getV z = s.getV z := rfl
@[simp] theorem State.getV_setFault (z : Nibble) (f : Option ErrorRecord) : (s.setFault f).getV z = s.getV z := rfl
@[simp] theorem State.getV_countDraw (z : Nibble) : (s.countDraw).getV z = s.getV z := rfl
@[simp] theorem State.getV_push (z : Nibble) (w : Word) : (s.push w).getV z = s.getV z := rfl
@[simp] theorem State.getV_pop (z : Nibble) : (s.pop).getV z = s.getV z := rfl
@[simp] theorem State.getV_advance (z : Nibble) : (s.advance).getV z = s.getV z := rfl
@[simp] theorem State.getV_skipIf (z : Nibble) (c : Bool) : (s.skipIf c).getV z = s.getV z := rfl
@[simp] theorem State.getV_storeAtI (z : Nibble) (bs : List Byte) : (s.storeAtI bs).getV z = s.getV z := rfl

@[simp] theorem State.getV_bumpIndex (z x : Nibble) : (s.bumpIndex x).getV z = s.getV z := by
  unfold State.bumpIndex; split <;> rfl

@[simp] theorem State.bumpIndex_i (x : Nibble) : (s.bumpIndex x).i =
    if s.params.loadStoreIncrementsI = true then BitVec.ofNat 16 (s.i.toNat + x.toNat + 1) else s.i := by
  unfold State.bumpIndex; split <;> rfl

/-- The logic instructions clear VF only under LOGIC_RESETS_VF (R153). -/
theorem State.getV_logicFlag (z : Nibble) : s.logicFlag.getV z =
    if s.params.logicResetsVF = true ∧ z = regF then 0#8 else s.getV z := by
  unfold State.logicFlag
  by_cases hp : s.params.logicResetsVF = true <;> by_cases hz : z = regF <;> simp [hp, hz, State.getV_writeFlag]

/-- FX1E writes VF only under ADD_INDEX_SETS_VF (R191). -/
theorem State.getV_indexFlag (z : Nibble) (c : Bool) : (s.indexFlag c).getV z =
    if s.params.addIndexSetsVF = true ∧ z = regF then (if c then 1#8 else 0#8) else s.getV z := by
  unfold State.indexFlag
  by_cases hp : s.params.addIndexSetsVF = true <;> by_cases hz : z = regF <;> simp [hp, hz, State.getV_writeFlag]

/-- Two states with the same fields but for the registers are the same when every register agrees. -/
theorem State.regs_ext {s t : State} (h : ∀ x : Nibble, s.getV x = t.getV x) : s.v = t.v := by
  apply Vector.ext
  intro k hk
  have := h (BitVec.ofNat 4 k)
  have hk' : k % 16 = k := Nat.mod_eq_of_lt hk
  simpa [State.getV, hk'] using this

end Sys2Proof.Machine
end

