-- ==== Sys2Proof/Laws/Ops.lean ====
section
/-! SUPPORT. What each shared operation does, said once: raising, the ranges that are checked, groups of registers, keys, the
call stack, the cells of a sprite, and every way a cycle can end. -/

namespace Sys2Proof.Machine

/-! ## Errors and ranges -/

/-- Raising writes the latch and nothing else (R233). -/
@[simp] theorem raise_eq (k : ErrorKind) (w : Word) (s : State) :
    raise k w s = .next (s.setFault (some ⟨k, s.pc, w⟩)) := rfl

/-- The index-relative check (R53, R193). -/
theorem State.indexInRange_iff (s : State) (k : Nat) : s.indexInRange k = true ↔ s.i.toNat + k ≤ 0xFFF := by
  exact decide_eq_true_iff

/-- The sprite check: no byte, or the last one inside memory (R111, R114). -/
theorem State.spriteInRange_iff (s : State) (n : Nibble) :
    s.spriteInRange n = true ↔ n.toNat = 0 ∨ s.i.toNat + n.toNat ≤ 0x1000 := by
  unfold State.spriteInRange
  split
  · simp_all
  · rw [State.indexInRange_iff]; omega

/-- The fetch check (R56, R57). -/
theorem State.fetchInRange_iff (s : State) : s.fetchInRange = true ↔ s.pc.toNat + 1 ≤ 0xFFF := by
  exact decide_eq_true_iff

/-! ## Operands as numbers -/

/-- A zero-extended address keeps its value (R87). -/
@[simp] theorem toNat_zext16 (nnn : Addr) : (zext16 nnn).toNat = nnn.toNat := by
  have := nnn.isLt
  simp only [zext16, BitVec.toNat_setWidth]; omega

/-- The low nibble of a register as a number (R192, R213). -/
theorem State.toNat_lowNibble (s : State) (x : Nibble) : (s.lowNibble x).toNat = (s.getV x).toNat % 16 := by
  simp [State.lowNibble, BitVec.extractLsb'_toNat]

/-- A truncated sum as a number (R9, R156). -/
theorem toNat_addTrunc (a b : Byte) : (addTrunc a b).toNat = (a.toNat + b.toNat) % 256 := by
  simp [addTrunc]

/-- A truncated difference as a number (R157, R162). -/
theorem toNat_subTrunc (a b : Byte) : (subTrunc a b).toNat = (a.toNat + 256 - b.toNat) % 256 := by
  simp [subTrunc]

/-! ## Groups of registers -/

/-- Writing a group of registers: the bytes written in their range, every other register as before. -/
theorem getElem_writeRegs (v : Vector Byte 16) (k : Nat) (bs : List Byte) (j : Nat) (hj : j < 16) :
    (writeRegs v k bs)[j] = if k ≤ j ∧ j < k + bs.length then bs.getD (j - k) 0#8 else v[j] := by
  induction bs generalizing v k with
  | nil => simp only [writeRegs, List.length_nil]; rw [if_neg (by omega)]
  | cons b bs ih =>
    simp only [writeRegs, ih, List.length_cons, Vector.getElem_setIfInBounds]
    by_cases hk : k = j
    · subst hk; simp
    · by_cases hin : k + 1 ≤ j ∧ j < k + 1 + bs.length
      · have h2 : k ≤ j ∧ j < k + (bs.length + 1) := by omega
        have h3 : j - k = (j - (k + 1)) + 1 := by omega
        simp [hin, h2, h3]
      · have h2 : ¬(k ≤ j ∧ j < k + (bs.length + 1)) := by omega
        simp only [hin, h2, hk, if_false]

@[simp] theorem State.length_regsUpTo (s : State) (x : Nibble) : (s.regsUpTo x).length = x.toNat + 1 := by
  have := x.isLt
  simp only [State.regsUpTo, List.length_take, Vector.length_toList]
  omega

/-- The `k`-th byte of `V[0]` to `V[x]` is `V[k]`. -/
theorem State.getD_regsUpTo (s : State) (x k : Nibble) (hk : k.toNat ≤ x.toNat) :
    (s.regsUpTo x).getD k.toNat 0#8 = s.getV k := by
  have h : k.toNat < x.toNat + 1 := by omega
  have hk16 : k.toNat < 16 := k.isLt
  simp [State.regsUpTo, State.getV, h, Vector.getElem?_eq_getElem hk16]

/-! ## Keys -/

/-- The least pressed key (R215, R216). -/
theorem State.leastKey_eq_some (s : State) (k : Nat) :
    s.leastKey = some k ↔ ∃ h : k < 16, s.key[k] = true ∧ ∀ j (hj : j < k), s.key[j] = false := by
  simp [State.leastKey, List.findIdx?_eq_some_iff_getElem]

/-- No key is found exactly when every key is released. -/
theorem State.leastKey_eq_none (s : State) : s.leastKey = none ↔ ∀ k (h : k < 16), s.key[k] = false := by
  simp only [State.leastKey, List.findIdx?_eq_none_iff, id_eq]
  constructor
  · intro h k hk
    exact h _ (by simp)
  · intro h b hb
    obtain ⟨k, hk, rfl⟩ := List.getElem_of_mem hb
    simpa using h k (by simpa using hk)

/-! ## The call stack -/

/-- What was pushed is what the next pop finds (R31, R32). -/
theorem State.stackAt_push (s : State) (w : Word) (h : s.sp < s.stack.length) : (s.push w).stackAt s.sp = w := by
  simp [State.stackAt, State.push, h]

/-! ## The cells of a sprite -/

/-- A cell of the grid (R111, R113). -/
theorem spriteCell_mem {p : Params} (hw : p.wf) {x0 y0 r c : Nat} {q : Pixel}
    (h : spriteCell p x0 y0 r c = some q) : q.x < p.displayW ∧ q.y < p.displayH := by
  obtain ⟨-, hW, hH, -⟩ := hw
  unfold spriteCell at h
  cases he : p.drawEdge <;> simp only [he] at h
  · obtain rfl := Option.some.inj h
    exact ⟨Nat.mod_lt _ hW, Nat.mod_lt _ hH⟩
  · split at h
    · obtain rfl := Option.some.inj h; assumption
    · simp at h

/-- The cells of one sprite row. -/
theorem mem_rowCells {p : Params} {x0 y0 r : Nat} {b : Byte} {q : Pixel} :
    q ∈ rowCells p x0 y0 r b ↔ ∃ c < 8, spriteBit b c = true ∧ spriteCell p x0 y0 r c = some q := by
  simp only [rowCells, List.mem_filterMap, List.mem_range]
  refine exists_congr fun c => and_congr_right fun _ => ?_
  by_cases hb : spriteBit b c = true <;> simp [hb]

/-- The cells of a sprite: one for each 1 bit of each row that lands on the grid (R111 to R113). -/
theorem mem_spriteCells {p : Params} {x0 y0 r : Nat} {bs : List Byte} {q : Pixel} :
    q ∈ spriteCells p x0 y0 r bs ↔
      ∃ j < bs.length, ∃ c < 8, spriteBit (bs.getD j 0#8) c = true ∧ spriteCell p x0 y0 (r + j) c = some q := by
  induction bs generalizing r with
  | nil => simp [spriteCells]
  | cons b bs ih =>
    simp only [spriteCells, List.mem_append, mem_rowCells, ih, List.length_cons]
    constructor
    · rintro (⟨c, hc, hb, hq⟩ | ⟨j, hj, c, hc, hb, hq⟩)
      · exact ⟨0, by omega, c, hc, by simpa using hb, by simpa using hq⟩
      · exact ⟨j + 1, by omega, c, hc, by simpa using hb, by rw [← hq]; congr 1; omega⟩
    · rintro ⟨j, hj, c, hc, hb, hq⟩
      cases j with
      | zero => exact .inl ⟨c, hc, by simpa using hb, by simpa using hq⟩
      | succ j => exact .inr ⟨j, by omega, c, hc, by simpa using hb, by rw [← hq]; congr 1; omega⟩

/-- How often one row of a sprite draws a cell. -/
theorem count_rowCells {p : Params} {x0 y0 r : Nat} {b : Byte} {q : Pixel} :
    (rowCells p x0 y0 r b).count q =
      ((List.range 8).filter (fun c => spriteBit b c && decide (spriteCell p x0 y0 r c = some q))).length := by
  rw [rowCells, ← List.countP_eq_length_filter, List.count, List.countP_filterMap]
  congr 1
  funext c
  cases hb : spriteBit b c
  · simp
  · cases hs : spriteCell p x0 y0 r c <;> simp [BEq.beq, eq_comm]

/-- How often a sprite draws a cell: the sum over its rows. -/
theorem count_spriteCells {p : Params} {x0 y0 r : Nat} {bs : List Byte} {q : Pixel} :
    (spriteCells p x0 y0 r bs).count q = ((List.range bs.length).map (fun j =>
      ((List.range 8).filter (fun c =>
        spriteBit (bs.getD j 0#8) c && decide (spriteCell p x0 y0 (r + j) c = some q))).length)).sum := by
  induction bs generalizing r with
  | nil => simp [spriteCells]
  | cons b bs ih =>
    rw [spriteCells, List.count_append, count_rowCells, ih, List.length_cons, List.range_succ_eq_map (n := bs.length), List.map_cons,
      List.sum_cons, List.map_map]
    congr 1
    congr 2
    funext j
    simp [Nat.add_assoc, Nat.add_comm 1]

/-- Every cell of a sprite is a cell of the grid. -/
theorem spriteCells_in_grid {p : Params} (hw : p.wf) {x0 y0 r : Nat} {bs : List Byte} :
    ∀ q ∈ spriteCells p x0 y0 r bs, q.x < p.displayW ∧ q.y < p.displayH := by
  intro q hq
  obtain ⟨j, -, c, -, -, h⟩ := mem_spriteCells.mp hq
  exact spriteCell_mem hw h

/-- Where `(a + j) mod m` and `(a + k) mod m` agree for `j`, `k` below `m`, `j` and `k` agree. -/
theorem add_mod_inj {a j k m : Nat} (hj : j < m) (hk : k < m) (h : (a + j) % m = (a + k) % m) : j = k :=
  Nat.ModEq.eq_of_lt_of_lt (Nat.ModEq.add_left_cancel' a h) hj hk

/-- The columns of one row land on different cells, except under `wrap` on a display narrower than 8 (R114). -/
theorem spriteCell_column_inj {p : Params} (hw : p.drawEdge = .clip ∨ 8 ≤ p.displayW) {x0 y0 r c d : Nat} {q : Pixel}
    (hc : c < 8) (hd : d < 8) (h : spriteCell p x0 y0 r c = some q) (h' : spriteCell p x0 y0 r d = some q) : c = d := by
  have e := h.trans h'.symm
  unfold spriteCell at e h h'
  cases he : p.drawEdge with
  | wrap =>
    have hW : 8 ≤ p.displayW := by simpa [he] using hw
    simp only [he, Option.some.injEq, Pixel.mk.injEq] at e
    exact add_mod_inj (by omega) (by omega) e.1
  | clip =>
    simp only [he] at h h'
    split at h <;> split at h' <;> simp_all
    have := congrArg Pixel.x (h.trans h'.symm)
    simp only at this; omega

theorem nodup_rowCells {p : Params} (hw : p.drawEdge = .clip ∨ 8 ≤ p.displayW) {x0 y0 r : Nat} {b : Byte} :
    (rowCells p x0 y0 r b).Nodup := by
  unfold rowCells
  rw [List.nodup_iff_pairwise_ne, List.pairwise_filterMap]
  refine List.Pairwise.imp_of_mem ?_ (List.nodup_iff_pairwise_ne.mp List.nodup_range)
  intro c d hc hd hne q hq q' hq' e
  rw [List.mem_range] at hc hd
  subst e
  by_cases h1 : spriteBit b c = true <;> by_cases h2 : spriteBit b d = true <;> simp_all
  exact hne (spriteCell_column_inj hw hc hd hq hq')

/-- Two rows fewer than DISPLAY_H apart land on different cells. -/
theorem spriteCell_row_inj {p : Params} {x0 y0 r j c d : Nat} {q : Pixel} (hj : p.drawEdge = .clip ∨ j < p.displayH)
    (h : spriteCell p x0 y0 r c = some q) (h' : spriteCell p x0 y0 (r + j) d = some q) : j = 0 := by
  unfold spriteCell at h h'
  cases he : p.drawEdge with
  | wrap =>
    have hH : j < p.displayH := by simpa [he] using hj
    simp only [he, Option.some.injEq] at h h'
    have e := congrArg Pixel.y (h.trans h'.symm)
    simp only [← Nat.add_assoc] at e
    exact (add_mod_inj (a := y0 + r) (j := 0) (k := j) (by omega) hH e).symm
  | clip =>
    simp only [he] at h h'
    split at h <;> split at h' <;> simp_all
    have := congrArg Pixel.y (h.trans h'.symm)
    simp only at this; omega

/-- No cell is drawn twice in one DRW under `clip`, nor under `wrap` on a display at least 8 wide and as high as the
sprite (R114). -/
theorem nodup_spriteCells {p : Params} {x0 y0 r : Nat} {bs : List Byte}
    (hw : p.drawEdge = .clip ∨ (8 ≤ p.displayW ∧ bs.length ≤ p.displayH)) : (spriteCells p x0 y0 r bs).Nodup := by
  induction bs generalizing r with
  | nil => simp [spriteCells]
  | cons b bs ih =>
    simp only [List.length_cons] at hw
    unfold spriteCells
    rw [List.nodup_append]
    refine ⟨nodup_rowCells (hw.imp_right (·.1)), ih (hw.imp_right (fun h => ⟨h.1, by omega⟩)), ?_⟩
    rintro q hq q' hq' rfl
    obtain ⟨c, -, -, h⟩ := mem_rowCells.mp hq
    obtain ⟨j, hj, d, -, -, h'⟩ := mem_spriteCells.mp hq'
    rw [show r + 1 + j = r + (j + 1) by omega] at h'
    have := spriteCell_row_inj (hw.imp_right (fun h => by omega)) h h'
    omega

/-! ## What a result into a register does -/

/-- A result with no flag: only the register and PC (R150, R151, R152). -/
theorem State.result_spec (s : State) (x : Nibble) (r : Byte) :
    ∃ t, s.result x r = .next t ∧ t.getV x = r ∧ (∀ z, z ≠ x → t.getV z = s.getV z) ∧
      t = { s with v := t.v, pc := s.pc + 2#16 } :=
  ⟨_, rfl, by simp, fun z hz => by simp [State.getV_setV, Ne.symm hz], rfl⟩

/-- A result with a flag: the flag is written last, so it wins when the destination is VF (R24). -/
theorem State.resultFlag_spec (s : State) (x : Nibble) (r : Byte) (c : Bool) :
    ∃ t, s.resultFlag x r c = .next t ∧ (x ≠ regF → t.getV x = r) ∧
      t.getV regF = (if c then 1#8 else 0#8) ∧ (∀ z, z ≠ x → z ≠ regF → t.getV z = s.getV z) ∧
      t = { s with v := t.v, pc := s.pc + 2#16 } :=
  ⟨_, rfl, fun h => by simp [State.getV_writeFlag, h], by simp [State.getV_writeFlag],
    fun z hz hf => by simp [State.getV_writeFlag, State.getV_setV, Ne.symm hz, hf], rfl⟩

/-! ## A cycle -/

/-- Every way a cycle can end in a next state: the order of tests of R237. -/
theorem cycle_cases {meaning : Instr → State → Result} {s t : State} (h : cycle meaning s = .next t) :
    (s.fault ≠ none ∧ t = s) ∨
    (s.fault = none ∧ s.fetchInRange = false ∧ t = s.setFault (some ⟨.memoryOutOfBounds, s.pc, 0#16⟩)) ∨
    (s.fault = none ∧ s.fetchInRange = true ∧ ∃ i, decode s.fetchWord = .op i ∧ meaning i s = .next t) ∨
    (s.fault = none ∧ s.fetchInRange = true ∧ ∃ w, decode s.fetchWord = .unknown w ∧ unknownWord w s = .next t) := by
  unfold cycle at h
  cases hf : s.fault with
  | some r =>
    rw [hf] at h
    exact .inl ⟨by simp, (Host.Outcome.next.inj h).symm⟩
  | none =>
    rw [hf] at h
    cases hr : s.fetchInRange with
    | false =>
      simp only [hr, raise_eq, Bool.false_eq_true, if_false] at h
      exact .inr (.inl ⟨rfl, rfl, (Host.Outcome.next.inj h).symm⟩)
    | true =>
      simp only [hr, if_true] at h
      cases hd : decode s.fetchWord with
      | op i => rw [hd] at h; exact .inr (.inr (.inl ⟨rfl, rfl, i, rfl, h⟩))
      | unknown w => rw [hd] at h; exact .inr (.inr (.inr ⟨rfl, rfl, w, rfl, h⟩))

/-- What an unknown word does: an error under `halt`, an advance under `skip` (R236). -/
theorem unknownWord_cases {w : Word} {s t : State} (h : unknownWord w s = .next t) :
    (s.params.unknownOpcodePolicy = .halt ∧ t = s.setFault (some ⟨.decodeError, s.pc, w⟩)) ∨
    (s.params.unknownOpcodePolicy = .skip ∧ t = s.advance) := by
  unfold unknownWord at h
  cases hp : s.params.unknownOpcodePolicy <;> simp only [hp, raise_eq] at h
  · exact .inl ⟨rfl, (Host.Outcome.next.inj h).symm⟩
  · exact .inr ⟨rfl, (Host.Outcome.next.inj h).symm⟩

end Sys2Proof.Machine
end

