-- ==== Sys2Proof/Laws/PerInstr.lean ====
section
/-! SUPPORT. The family EncodeMatches, one lemma per constructor of Instr: the word the encoder gives agrees with the
match and mask of the instruction's row of spec/opcode_table.json. -/

namespace Sys2Proof

namespace Laws.EncodeMatches

/-- The bits that the table fixes have the table's values in the encoded word. -/
def Statement (i : Instr) : Prop := encode i &&& i.mask = i.pattern

theorem sys (nnn : Addr) : Statement (.sys nnn) := (packNNN_and_class _ nnn).trans rfl
theorem cls : Statement (.cls) := rfl
theorem ret : Statement (.ret) := rfl
theorem jp (nnn : Addr) : Statement (.jp nnn) := (packNNN_and_class _ nnn).trans rfl
theorem call (nnn : Addr) : Statement (.call nnn) := (packNNN_and_class _ nnn).trans rfl
theorem seVxNn (x : Nibble) (nn : Byte) : Statement (.seVxNn x nn) := (packXNN_and_class _ x nn).trans rfl
theorem sneVxNn (x : Nibble) (nn : Byte) : Statement (.sneVxNn x nn) := (packXNN_and_class _ x nn).trans rfl
theorem seVxVy (x y : Nibble) : Statement (.seVxVy x y) := (packXYN_and_ends _ x y _).trans rfl
theorem ldVxNn (x : Nibble) (nn : Byte) : Statement (.ldVxNn x nn) := (packXNN_and_class _ x nn).trans rfl
theorem addVxNn (x : Nibble) (nn : Byte) : Statement (.addVxNn x nn) := (packXNN_and_class _ x nn).trans rfl
theorem ldVxVy (x y : Nibble) : Statement (.ldVxVy x y) := (packXYN_and_ends _ x y _).trans rfl
theorem or (x y : Nibble) : Statement (.or x y) := (packXYN_and_ends _ x y _).trans rfl
theorem and (x y : Nibble) : Statement (.and x y) := (packXYN_and_ends _ x y _).trans rfl
theorem xor (x y : Nibble) : Statement (.xor x y) := (packXYN_and_ends _ x y _).trans rfl
theorem addVxVy (x y : Nibble) : Statement (.addVxVy x y) := (packXYN_and_ends _ x y _).trans rfl
theorem sub (x y : Nibble) : Statement (.sub x y) := (packXYN_and_ends _ x y _).trans rfl
theorem shr (x y : Nibble) : Statement (.shr x y) := (packXYN_and_ends _ x y _).trans rfl
theorem subn (x y : Nibble) : Statement (.subn x y) := (packXYN_and_ends _ x y _).trans rfl
theorem shl (x y : Nibble) : Statement (.shl x y) := (packXYN_and_ends _ x y _).trans rfl
theorem sneVxVy (x y : Nibble) : Statement (.sneVxVy x y) := (packXYN_and_ends _ x y _).trans rfl
theorem ldINnn (nnn : Addr) : Statement (.ldINnn nnn) := (packNNN_and_class _ nnn).trans rfl
theorem jpV0 (nnn : Addr) : Statement (.jpV0 nnn) := (packNNN_and_class _ nnn).trans rfl
theorem rnd (x : Nibble) (nn : Byte) : Statement (.rnd x nn) := (packXNN_and_class _ x nn).trans rfl
theorem drw (x y n : Nibble) : Statement (.drw x y n) := (packXYN_and_class _ x y n).trans rfl
theorem skp (x : Nibble) : Statement (.skp x) := (packXNN_and_ends _ x _).trans rfl
theorem sknp (x : Nibble) : Statement (.sknp x) := (packXNN_and_ends _ x _).trans rfl
theorem ldVxDt (x : Nibble) : Statement (.ldVxDt x) := (packXNN_and_ends _ x _).trans rfl
theorem ldVxK (x : Nibble) : Statement (.ldVxK x) := (packXNN_and_ends _ x _).trans rfl
theorem ldDtVx (x : Nibble) : Statement (.ldDtVx x) := (packXNN_and_ends _ x _).trans rfl
theorem ldStVx (x : Nibble) : Statement (.ldStVx x) := (packXNN_and_ends _ x _).trans rfl
theorem addIVx (x : Nibble) : Statement (.addIVx x) := (packXNN_and_ends _ x _).trans rfl
theorem ldFVx (x : Nibble) : Statement (.ldFVx x) := (packXNN_and_ends _ x _).trans rfl
theorem ldBVx (x : Nibble) : Statement (.ldBVx x) := (packXNN_and_ends _ x _).trans rfl
theorem ldMiVx (x : Nibble) : Statement (.ldMiVx x) := (packXNN_and_ends _ x _).trans rfl
theorem ldVxMi (x : Nibble) : Statement (.ldVxMi x) := (packXNN_and_ends _ x _).trans rfl

end Laws.EncodeMatches

end Sys2Proof
end

