-- ==== Sys2Proof/Laws/Session.lean ====
section
/-! SUPPORT. The laws of the host's operations: every way one of them can answer a next session. -/

namespace Sys2Proof.Machine

/-- A session follows from an operation on the machine exactly when the operation answers a next state. -/
@[simp] theorem Session.next_eq_next {b : Bool} {r : Result} {g : Session} :
    Session.next b r = .next g ↔ ∃ t, r = .next t ∧ g = ⟨t, b⟩ := by
  cases r <;> simp [Session.next, eq_comm]

/-- `load` answers a next session only when it is in its order and the program fits (R262 to R264). -/
@[simp] theorem load_eq_next {bytes : List Byte} {h g : Session} :
    load bytes h = .next g ↔ h.loadable = true ∧ bytes.length ≤ 3584 ∧ g = ⟨loadState bytes h.machine, false⟩ := by
  unfold load
  split
  case isTrue hl =>
    split
    case isTrue hb => exact ⟨fun e => ⟨hl, hb, (Host.Outcome.next.inj e).symm⟩, fun e => by rw [e.2.2]⟩
    case isFalse hb => exact ⟨(fun e => nomatch e), fun e => absurd e.2.1 hb⟩
  case isFalse hl => exact ⟨(fun e => nomatch e), fun e => absurd e.1 hl⟩

/-- A key change answers a next state only for a key 0 to 15 (R249). -/
@[simp] theorem setKeyState_eq_next {k : Nat} {b : Bool} {s t : State} :
    setKeyState k b s = .next t ↔ k < 16 ∧ t = s.setKeys (s.key.setIfInBounds k b) := by
  unfold setKeyState
  rw [show numKeys = 16 from rfl]
  split <;> simp_all [eq_comm]

/-- Every way an operation of the host can answer a next session (R246). -/
theorem hostOp_cases {o : HostOp} {h g : Session} (e : hostOp o h = .next g) :
    (∃ bytes, o = .load bytes ∧ h.loadable = true ∧ bytes.length ≤ 3584 ∧ g = ⟨loadState bytes h.machine, false⟩) ∨
    (∃ t, o = .step ∧ step h.machine = .next t ∧ g = ⟨t, false⟩) ∨
    (o = .tickTimers ∧ g = ⟨tickTimers h.machine, h.loadable⟩) ∨
    (∃ k b, o = .setKeyState k b ∧ k < 16 ∧
      g = ⟨h.machine.setKeys (h.machine.key.setIfInBounds k b), h.loadable⟩) ∨
    ((o = .framebufferSnapshot ∨ o = .soundActive) ∧ g = h) := by
  cases o with
  | load bytes => exact .inl ⟨bytes, rfl, load_eq_next.mp e⟩
  | step =>
    obtain ⟨t, ht, hg⟩ := Session.next_eq_next.mp e
    exact .inr (.inl ⟨t, rfl, ht, hg⟩)
  | tickTimers => exact .inr (.inr (.inl ⟨rfl, (Host.Outcome.next.inj e).symm⟩))
  | setKeyState k b =>
    obtain ⟨t, ht, hg⟩ := Session.next_eq_next.mp e
    obtain ⟨hk, rfl⟩ := setKeyState_eq_next.mp ht
    exact .inr (.inr (.inr (.inl ⟨k, b, rfl, hk, hg⟩)))
  | framebufferSnapshot => exact .inr (.inr (.inr (.inr ⟨.inl rfl, (Host.Outcome.next.inj e).symm⟩)))
  | soundActive => exact .inr (.inr (.inr (.inr ⟨.inr rfl, (Host.Outcome.next.inj e).symm⟩)))

end Sys2Proof.Machine
end

