-- ==== Sys2Proof/Tests/Slice0.lean ====
section
/-! SUPPORT. The model's own tests. Expected results are those of spec/95_test_vectors.md (the vector is named in each
comment) or of the worked examples of the rules; then the witnesses: for each statement of Obligations.lean with
hypotheses, a concrete state and operands that meet them. -/

namespace Sys2Proof.Tests

open Sys2Proof Sys2Proof.Machine

/-! ## WellFormed -/

/-- R92: the word 0x00E0 is CLS, so the term SYS 0x0E0 is refused. -/
theorem test_wellFormed_refuses_sys_0E0 : ¬(Instr.sys 0x0E0).WellFormed := by decide

/-- R92: the word 0x00EE is RET, so the term SYS 0x0EE is refused. -/
theorem test_wellFormed_refuses_sys_0EE : ¬(Instr.sys 0x0EE).WellFormed := by decide

/-! ## Decoding: words written out from the patterns of spec/30_encoding.md R90 -/

theorem test_decode_sys : decode 0x0123 = .op (.sys 0x123) ∧ encode (.sys 0x123) = 0x0123 := by decide
theorem test_decode_cls : decode 0x00E0 = .op (.cls) ∧ encode (.cls) = 0x00E0 := by decide
theorem test_decode_ret : decode 0x00EE = .op (.ret) ∧ encode (.ret) = 0x00EE := by decide
theorem test_decode_jp : decode 0x1228 = .op (.jp 0x228) ∧ encode (.jp 0x228) = 0x1228 := by decide
theorem test_decode_call : decode 0x2300 = .op (.call 0x300) ∧ encode (.call 0x300) = 0x2300 := by decide
theorem test_decode_seVxNn : decode 0x3110 = .op (.seVxNn 0x1 0x10) ∧ encode (.seVxNn 0x1 0x10) = 0x3110 := by decide
theorem test_decode_sneVxNn : decode 0x4110 = .op (.sneVxNn 0x1 0x10) ∧ encode (.sneVxNn 0x1 0x10) = 0x4110 := by decide
theorem test_decode_seVxVy : decode 0x5120 = .op (.seVxVy 0x1 0x2) ∧ encode (.seVxVy 0x1 0x2) = 0x5120 := by decide
theorem test_decode_ldVxNn : decode 0x6A02 = .op (.ldVxNn 0xA 0x02) ∧ encode (.ldVxNn 0xA 0x02) = 0x6A02 := by decide
theorem test_decode_addVxNn : decode 0x7301 = .op (.addVxNn 0x3 0x01) ∧ encode (.addVxNn 0x3 0x01) = 0x7301 := by decide
theorem test_decode_ldVxVy : decode 0x8010 = .op (.ldVxVy 0x0 0x1) ∧ encode (.ldVxVy 0x0 0x1) = 0x8010 := by decide
theorem test_decode_or : decode 0x8AB1 = .op (.or 0xA 0xB) ∧ encode (.or 0xA 0xB) = 0x8AB1 := by decide
theorem test_decode_and : decode 0x8AB2 = .op (.and 0xA 0xB) ∧ encode (.and 0xA 0xB) = 0x8AB2 := by decide
theorem test_decode_xor : decode 0x8AB3 = .op (.xor 0xA 0xB) ∧ encode (.xor 0xA 0xB) = 0x8AB3 := by decide
theorem test_decode_addVxVy : decode 0x8AB4 = .op (.addVxVy 0xA 0xB) ∧ encode (.addVxVy 0xA 0xB) = 0x8AB4 := by decide
theorem test_decode_sub : decode 0x8AB5 = .op (.sub 0xA 0xB) ∧ encode (.sub 0xA 0xB) = 0x8AB5 := by decide
theorem test_decode_shr : decode 0x8AB6 = .op (.shr 0xA 0xB) ∧ encode (.shr 0xA 0xB) = 0x8AB6 := by decide
theorem test_decode_subn : decode 0x8AB7 = .op (.subn 0xA 0xB) ∧ encode (.subn 0xA 0xB) = 0x8AB7 := by decide
theorem test_decode_shl : decode 0x8ABE = .op (.shl 0xA 0xB) ∧ encode (.shl 0xA 0xB) = 0x8ABE := by decide
theorem test_decode_sneVxVy : decode 0x9120 = .op (.sneVxVy 0x1 0x2) ∧ encode (.sneVxVy 0x1 0x2) = 0x9120 := by decide
theorem test_decode_ldINnn : decode 0xA22A = .op (.ldINnn 0x22A) ∧ encode (.ldINnn 0x22A) = 0xA22A := by decide
theorem test_decode_jpV0 : decode 0xBFFF = .op (.jpV0 0xFFF) ∧ encode (.jpV0 0xFFF) = 0xBFFF := by decide
theorem test_decode_rnd : decode 0xC00F = .op (.rnd 0x0 0x0F) ∧ encode (.rnd 0x0 0x0F) = 0xC00F := by decide
theorem test_decode_drw : decode 0xDABC = .op (.drw 0xA 0xB 0xC) ∧ encode (.drw 0xA 0xB 0xC) = 0xDABC := by decide
theorem test_decode_skp : decode 0xE59E = .op (.skp 0x5) ∧ encode (.skp 0x5) = 0xE59E := by decide
theorem test_decode_sknp : decode 0xE5A1 = .op (.sknp 0x5) ∧ encode (.sknp 0x5) = 0xE5A1 := by decide
theorem test_decode_ldVxDt : decode 0xF507 = .op (.ldVxDt 0x5) ∧ encode (.ldVxDt 0x5) = 0xF507 := by decide
theorem test_decode_ldVxK : decode 0xF30A = .op (.ldVxK 0x3) ∧ encode (.ldVxK 0x3) = 0xF30A := by decide
theorem test_decode_ldDtVx : decode 0xF015 = .op (.ldDtVx 0x0) ∧ encode (.ldDtVx 0x0) = 0xF015 := by decide
theorem test_decode_ldStVx : decode 0xF118 = .op (.ldStVx 0x1) ∧ encode (.ldStVx 0x1) = 0xF118 := by decide
theorem test_decode_addIVx : decode 0xF21E = .op (.addIVx 0x2) ∧ encode (.addIVx 0x2) = 0xF21E := by decide
theorem test_decode_ldFVx : decode 0xF329 = .op (.ldFVx 0x3) ∧ encode (.ldFVx 0x3) = 0xF329 := by decide
theorem test_decode_ldBVx : decode 0xF033 = .op (.ldBVx 0x0) ∧ encode (.ldBVx 0x0) = 0xF033 := by decide
theorem test_decode_ldMiVx : decode 0xF255 = .op (.ldMiVx 0x2) ∧ encode (.ldMiVx 0x2) = 0xF255 := by decide
theorem test_decode_ldVxMi : decode 0xF165 = .op (.ldVxMi 0x1) ∧ encode (.ldVxMi 0x1) = 0xF165 := by decide

/-- V7 and R95: words of the five Unknown groups, each refused by name. -/
theorem test_decode_unknown : decode 0x5121 = .unknown 0x5121 ∧ decode 0x8008 = .unknown 0x8008 ∧
    decode 0x9121 = .unknown 0x9121 ∧ decode 0xE000 = .unknown 0xE000 ∧ decode 0xF0FF = .unknown 0xF0FF := by decide

/-- V7: words of class 0 other than 0x00E0 and 0x00EE are SYS. -/
theorem test_decode_sys_corners : decode 0x0000 = .op (.sys 0x000) ∧ decode 0x00E1 = .op (.sys 0x0E1) ∧
    decode 0x0FFF = .op (.sys 0xFFF) := by decide

/-- E10 and R55: the first byte is the high byte, and two bytes are consumed. -/
theorem test_decode_bytes : decodeBytes [0xA2, 0x2A, 0x00, 0xE0] = .op (.ldINnn 0x22A) [0x00, 0xE0] := by decide

theorem test_decode_bytes_short : decodeBytes [0xA2] = .tooShort := by decide

theorem test_decode_table_word : decodeTableWord 16 0xD125 = some (.drw 0x1 0x2 0x5) ∧
    decodeTableWord 16 0x5121 = none := by decide

/-! ## One step on a small state

The conventions of spec/95: the reset state, then the named state is set, then the word is placed at PC. -/

/-- The state after one step on a word placed at PC. -/
def after (w : Nat) (s : State) : Option State :=
  match step (s.withFetchWord 16 w) with
  | .next t => some t
  | .fault _ => none
  | .refused _ => none

/-- A machine with other parameters. -/
def withParams (p : Params) (s : State) : State := { s with params := p }

/-- The latch and PC after a step. -/
def errAfter (w : Nat) (s : State) : Option (Option ErrorRecord × Word) := (after w s).map (fun t => (t.fault, t.pc))

def regs (l : List (Nibble × Byte)) (s : State) : State := l.foldl (fun s p => s.setV p.1 p.2) s

def bytesAt (a : Nat) (l : List Byte) (s : State) : State := s.setMem (Memory.writeBytes s.mem a l)

def pressed (l : List Nat) (s : State) : State := s.setKeys (l.foldl (fun k j => k.setIfInBounds j true) s.key)

def r0 : State := State.reset

/-- V1.1. -/
theorem test_cls : (after 0x00E0 (r0.setFB [⟨0, 0⟩, ⟨63, 31⟩])).map (fun t => (t.fb, t.pc)) = some ([], 0x202) := by decide

/-- V1.3: a row at column 62 wraps to column 0. -/
theorem test_drw_wraps_columns : (after 0xD011 (bytesAt 0x300 [0xFF] ((regs [(0, 62)] r0).setI 0x300))).map (fun t => (t.fb, t.getV 0xF, t.pc)) =
    some ([⟨0, 0⟩, ⟨1, 0⟩, ⟨2, 0⟩, ⟨3, 0⟩, ⟨4, 0⟩, ⟨5, 0⟩, ⟨62, 0⟩, ⟨63, 0⟩], 0, 0x202) := by decide

/-- V1.8: one of two bits collides. -/
theorem test_drw_collision : (after 0xD011 (bytesAt 0x300 [0xC0] ((r0.setFB [⟨1, 0⟩]).setI 0x300))).map (fun t => (t.fb, t.getV 0xF)) = some ([⟨0, 0⟩], 1) := by decide

/-- V1.6: under `clip` the row past the bottom is not drawn. -/
theorem test_drw_clips_rows : (after 0xD012 (withParams { Params.standard with drawEdge := .clip }
    (bytesAt 0x300 [0x80, 0x80] ((regs [(1, 31)] r0).setI 0x300)))).map (fun t => (t.fb, t.getV 0xF)) = some ([⟨0, 31⟩], 0) := by decide

/-- V1.13: X = Y = F. -/
theorem test_drw_reads_coordinate_before_flag : (after 0xDFF1 (bytesAt 0x300 [0x80] ((regs [(0xF, 3)] r0).setI 0x300))).map (fun t => (t.fb, t.getV 0xF)) = some ([⟨3, 3⟩], 0) := by decide

/-- V1.12. -/
theorem test_drw_beyond_memory : errAfter 0xD012 (r0.setI 0xFFF) = some (some ⟨.memoryOutOfBounds, 0x200, 0xD012⟩, 0x200) := by decide

/-- V2.2. -/
theorem test_sys_faults : errAfter 0x0123 (r0.setPC 0x20A) = some (some ⟨.decodeError, 0x20A, 0x0123⟩, 0x20A) := by decide

/-- V2.3. -/
theorem test_sys_nop : errAfter 0x0123 (withParams { Params.standard with sysPolicy := .nop } r0) = some (none, 0x202) := by decide

/-- V2.7. -/
theorem test_ret_from_full_stack : (after 0x00EE { r0 with pc := 0x300, sp := 16, stack := r0.stack.set 15 0x456 }).map (fun t => (t.sp, t.pc)) = some (15, 0x456) := by decide

/-- V2.5. -/
theorem test_ret_underflows : errAfter 0x00EE r0 = some (some ⟨.stackUnderflow, 0x200, 0x00EE⟩, 0x200) := by decide

/-- V2.8. -/
theorem test_jp : errAfter 0x1228 r0 = some (none, 0x228) := by decide

/-- V2.14. -/
theorem test_call_at_the_top : (after 0x2FFE (r0.setPC 0xFFC)).map (fun t => (t.stackAt 0, t.sp, t.pc)) = some (0xFFE, 1, 0xFFE) := by decide

/-- V2.13. -/
theorem test_call_overflows : errAfter 0x2300 { r0 with sp := 16 } = some (some ⟨.stackOverflow, 0x200, 0x2300⟩, 0x200) := by decide

/-- V2.16. -/
theorem test_jpV0_not_masked : errAfter 0xBFFF (regs [(0, 0xFF)] r0) = some (none, 0x10FE) := by decide

/-- V2.18. -/
theorem test_jpV0_uses_vx : errAfter 0xB300 (withParams { Params.standard with jumpOffsetUsesVX := true } (regs [(0, 4), (3, 0x10)] r0)) = some (none, 0x310) := by decide

/-- V3.2. -/
theorem test_ld_flag_register : (after 0x6FFF (regs [] r0)).map (fun t => (t.getV 0xF, t.getV 0xF, t.pc)) = some (0xFF, 0xFF, 0x202) := by decide

/-- V3.3, E4. -/
theorem test_add_immediate_wraps : (after 0x7301 (regs [(3, 0xFF), (0xF, 0x5A)] r0)).map (fun t => (t.getV 3, t.getV 0xF, t.pc)) = some (0, 0x5A, 0x202) := by decide

/-- V3.6. -/
theorem test_ld_register : (after 0x8010 (regs [(1, 0x37)] r0)).map (fun t => (t.getV 0, t.getV 0xF, t.pc)) = some (0x37, 0, 0x202) := by decide

/-- V3.8. -/
theorem test_or : (after 0x8011 (regs [(0, 0x0F), (1, 0xF0), (0xF, 1)] r0)).map (fun t => (t.getV 0, t.getV 0xF, t.pc)) = some (0xFF, 1, 0x202) := by decide

/-- V3.9. -/
theorem test_or_resets_vf : (after 0x8011 (withParams { Params.standard with logicResetsVF := true } (regs [(0, 0x0F), (1, 0xF0), (0xF, 1)] r0))).map (fun t => (t.getV 0, t.getV 0xF, t.pc)) = some (0xFF, 0, 0x202) := by decide

/-- V3.10. -/
theorem test_and : (after 0x8012 (regs [(0, 0x3C), (1, 0x0F)] r0)).map (fun t => (t.getV 0, t.getV 0xF, t.pc)) = some (0x0C, 0, 0x202) := by decide

/-- V3.11. -/
theorem test_xor : (after 0x8013 (regs [(0, 0xFF), (1, 0x0F)] r0)).map (fun t => (t.getV 0, t.getV 0xF, t.pc)) = some (0xF0, 0, 0x202) := by decide

/-- V3.13, E5. -/
theorem test_add_carries : (after 0x8014 (regs [(0, 0xFF), (1, 1)] r0)).map (fun t => (t.getV 0, t.getV 0xF, t.pc)) = some (0, 1, 0x202) := by decide

/-- V3.16: X = F. -/
theorem test_add_flag_overwrites_sum : (after 0x8F14 (regs [(0xF, 0xFF), (1, 1)] r0)).map (fun t => (t.getV 0xF, t.getV 0xF, t.pc)) = some (1, 1, 0x202) := by decide

/-- V3.18. -/
theorem test_sub_borrows : (after 0x8015 (regs [(0, 5), (1, 7)] r0)).map (fun t => (t.getV 0, t.getV 0xF, t.pc)) = some (0xFE, 0, 0x202) := by decide

/-- V3.20. -/
theorem test_sub_equal : (after 0x8015 (regs [(0, 7), (1, 7)] r0)).map (fun t => (t.getV 0, t.getV 0xF, t.pc)) = some (0, 1, 0x202) := by decide

/-- V3.23. -/
theorem test_shr : (after 0x8206 (regs [(2, 5)] r0)).map (fun t => (t.getV 2, t.getV 0xF, t.pc)) = some (2, 1, 0x202) := by decide

/-- V3.25. -/
theorem test_shr_uses_vy : (after 0x8216 (withParams { Params.standard with shiftUsesVY := true } (regs [(2, 4), (1, 0xFF)] r0))).map (fun t => (t.getV 2, t.getV 0xF, t.pc)) = some (0x7F, 1, 0x202) := by decide

/-- V3.27. -/
theorem test_subn : (after 0x8017 (regs [(0, 5), (1, 7)] r0)).map (fun t => (t.getV 0, t.getV 0xF, t.pc)) = some (2, 1, 0x202) := by decide

/-- V3.28. -/
theorem test_subn_borrows : (after 0x8017 (regs [(0, 7), (1, 5)] r0)).map (fun t => (t.getV 0, t.getV 0xF, t.pc)) = some (0xFE, 0, 0x202) := by decide

/-- V3.30. -/
theorem test_shl : (after 0x820E (regs [(2, 0x81)] r0)).map (fun t => (t.getV 2, t.getV 0xF, t.pc)) = some (2, 1, 0x202) := by decide

/-- V3.33. -/
theorem test_shl_uses_vy : (after 0x821E (withParams { Params.standard with shiftUsesVY := true } (regs [(2, 1), (1, 0x80)] r0))).map (fun t => (t.getV 2, t.getV 0xF, t.pc)) = some (0, 1, 0x202) := by decide

/-- V3.36: NN = 0 masks every draw. -/
theorem test_rnd_masked : ∃ t, exec (.rnd 0 0x00) r0 = .next t ∧ t.getV 0 = 0 ∧ t.draws = 1 ∧ t.pc = 0x202 :=
  ⟨_, rfl, by simp, rfl, rfl⟩

/-- V4.1. -/
theorem test_se_immediate_taken : errAfter 0x3110 (regs [(1, 0x10)] r0) = some (none, 0x204) := by decide

/-- V4.2. -/
theorem test_se_immediate_not_taken : errAfter 0x3110 (regs [(1, 0x11)] r0) = some (none, 0x202) := by decide

/-- V4.3. -/
theorem test_sne_immediate_not_taken : errAfter 0x4110 (regs [(1, 0x10)] r0) = some (none, 0x202) := by decide

/-- V4.4. -/
theorem test_sne_immediate_taken : errAfter 0x4110 (regs [(1, 0x11)] r0) = some (none, 0x204) := by decide

/-- V4.5. -/
theorem test_se_register_taken : errAfter 0x5120 (regs [(1, 0x33), (2, 0x33)] r0) = some (none, 0x204) := by decide

/-- V4.6. -/
theorem test_se_register_not_taken : errAfter 0x5120 (regs [(1, 0x33), (2, 0x34)] r0) = some (none, 0x202) := by decide

/-- V4.9. -/
theorem test_sne_register_taken : errAfter 0x9120 (regs [(1, 0x33), (2, 0x34)] r0) = some (none, 0x204) := by decide

/-- V4.10. -/
theorem test_sne_register_not_taken : errAfter 0x9120 (regs [(1, 0x33), (2, 0x33)] r0) = some (none, 0x202) := by decide

/-- V5.1. -/
theorem test_ldI : (after 0xA22A r0).map (fun t => (t.i, t.pc)) = some (0x022A, 0x202) := by decide

/-- V5.3. -/
theorem test_addI_overflow : (after 0xF21E ((regs [(2, 0x10)] r0).setI 0x0FF8)).map (fun t => (t.i, t.getV 0xF)) = some (0x1008, 1) := by decide

/-- V5.6: X = F. -/
theorem test_addI_addend_is_flag : (after 0xFF1E ((regs [(0xF, 5)] r0).setI 0x0100)).map (fun t => (t.i, t.getV 0xF)) = some (0x0105, 0) := by decide

/-- V5.9. -/
theorem test_ldF_low_nibble : (after 0xF329 (regs [(3, 0x1A)] r0)).map (fun t => t.i) = some 0x0032 := by decide

/-- V5.11. -/
theorem test_ldF_base : (after 0xF329 (withParams { Params.standard with fontBase := 0x050 } (regs [(3, 0x0A)] r0))).map (fun t => t.i) =
    some 0x0082 := by decide

/-- V5.14. -/
theorem test_bcd_at_the_top : (after 0xF033 ((regs [(0, 0xFF)] r0).setI 0xFFD)).map (fun t => Memory.readBytes t.mem 0xFFD 3) = some [2, 5, 5] := by decide

/-- V5.15. -/
theorem test_bcd_beyond_memory : errAfter 0xF033 ((regs [(0, 7)] r0).setI 0xFFE) = some (some ⟨.memoryOutOfBounds, 0x200, 0xF033⟩, 0x200) := by decide

/-- V5.17: with the increment of I. -/
theorem test_store_registers : (after 0xF255 (withParams { Params.standard with loadStoreIncrementsI := true }
    ((regs [(0, 1), (1, 2), (2, 3)] r0).setI 0x300))).map (fun t => (Memory.readBytes t.mem 0x300 4, t.i)) =
    some ([1, 2, 3, 0], 0x303) := by decide

/-- V5.19. -/
theorem test_store_beyond_memory : errAfter 0xF155 (r0.setI 0xFFF) = some (some ⟨.memoryOutOfBounds, 0x200, 0xF155⟩, 0x200) := by decide

/-- V5.21. -/
theorem test_load_registers : (after 0xF165 (bytesAt 0x300 [0xAA, 0xBB, 0xCC] (r0.setI 0x300))).map (fun t => (t.getV 0, t.getV 1, t.getV 2, t.i)) =
    some (0xAA, 0xBB, 0, 0x300) := by decide

/-- V5.24. -/
theorem test_load_beyond_memory : errAfter 0xF265 (r0.setI 0xFFE) = some (some ⟨.memoryOutOfBounds, 0x200, 0xF265⟩, 0x200) := by decide

/-- V6.1. -/
theorem test_read_dt : (after 0xF507 (r0.setDT 0x3C)).map (fun t => t.getV 5) = some 0x3C := by decide

/-- V6.2. -/
theorem test_set_dt : (after 0xF015 (regs [(0, 5)] r0)).map (fun t => (t.dt, t.st)) = some (5, 0) := by decide

/-- V6.3. -/
theorem test_set_st : (after 0xF118 (regs [(1, 2)] r0)).map (fun t => (t.dt, t.st, soundActive t)) = some (0, 2, true) := by decide

/-- V6.9. -/
theorem test_skp_low_nibble : errAfter 0xE09E (pressed [5] (regs [(0, 0x15)] r0)) = some (none, 0x204) := by decide

/-- V6.6. -/
theorem test_skp_not_taken : errAfter 0xE09E (regs [(0, 5)] r0) = some (none, 0x202) := by decide

/-- V6.7. -/
theorem test_sknp_taken : errAfter 0xE0A1 (regs [(0, 5)] r0) = some (none, 0x204) := by decide

/-- V6.8. -/
theorem test_sknp_not_taken : errAfter 0xE0A1 (pressed [5] (regs [(0, 5)] r0)) = some (none, 0x202) := by decide

/-- V6.11: nothing changes. -/
theorem test_key_wait : after 0xF30A r0 = some (r0.withFetchWord 16 0xF30A) := by decide

/-- V6.13. -/
theorem test_key_least : (after 0xF30A (pressed [9, 4] r0)).map (fun t => (t.getV 3, t.pc)) = some (4, 0x202) := by decide

/-- V8.1 and V8.2. -/
theorem test_fetch_beyond_memory : (match step (r0.setPC 0xFFF) with | .next t => t.fault | _ => none) = some ⟨.memoryOutOfBounds, 0xFFF, 0x0000⟩ ∧
    (match step (r0.setPC 0x1000) with | .next t => t.fault | _ => none) = some ⟨.memoryOutOfBounds, 0x1000, 0x0000⟩ := by decide

/-- V8.3 and V8.4. -/
theorem test_fetch_odd_and_last : errAfter 0x6001 (r0.setPC 0x201) = some (none, 0x203) ∧ errAfter 0x6001 (r0.setPC 0xFFE) = some (none, 0x1000) := by decide

/-- E11 and V8.6. -/
theorem test_unknown_halts_or_skips : errAfter 0x5121 r0 = some (some ⟨.decodeError, 0x200, 0x5121⟩, 0x200) ∧
    errAfter 0x5121 (withParams { Params.standard with unknownOpcodePolicy := .skip } r0) = some (none, 0x202) := by decide

/-- R266: 0x0000 at 0x200 is SYS. -/
theorem test_step_before_load : (match step r0 with | .next t => stepResult t | _ => .ok) = .err ⟨.decodeError, 0x200, 0x0000⟩ := by decide

/-- V6.15, V6.16 and V6.17. -/
theorem test_tick : (tickTimers (r0.setDT 1)).dt = 0 ∧ (tickTimers (r0.setST 3)).st = 2 ∧ (tickTimers r0).dt = 0 ∧
    (tickTimers ((r0.setDT 2).setFault (some ⟨.decodeError, 0x200, 0⟩))).dt = 1 := by decide

/-- E10 and R262: the program at 0x200, the font at FONT_BASE. -/
theorem test_load_places : (match load [0xA2, 0x2A, 0x00, 0xE0] ⟨r0, true⟩ with | .next g => (g.machine.fetchWord, g.machine.pc, Memory.readBytes g.machine.mem 50 5) | _ => (0, 0, [])) =
    (0xA22A, 0x200, [0xF0, 0x90, 0xF0, 0x90, 0x90]) := by decide

/-- P1's first two steps: construct, load, two steps. -/
theorem test_session : (match runSession Params.standard [0x60, 0x00, 0x70, 0x01] [.step, .tickTimers, .step] with
    | .next g => (g.machine.getV 0, g.machine.pc, stepResult g.machine) | _ => (0, 0, .ok)) = (1, 0x204, .ok) := by decide

/-- R264: a second `load`, and a `load` after a step, are refused; a tick before `load` is no step. -/
theorem test_load_out_of_order : (match runSession Params.standard [] [.load []] with | .refused .loadOutOfOrder => true | _ => false) = true ∧
    (match runHost [.step, .load []] ⟨r0, true⟩ with | .refused .loadOutOfOrder => true | _ => false) = true ∧
    (match runHost [.tickTimers, .load []] ⟨r0, true⟩ with | .next _ => true | _ => false) = true := by decide

/-- R230: the table of codes. -/
theorem test_error_codes : [ErrorKind.decodeError, .stackOverflow, .stackUnderflow, .memoryOutOfBounds].map ErrorKind.code = [1, 2, 3, 4] := by decide

/-- R249. -/
theorem test_bad_key_refused : (match setKeyState 16 true r0 with | .refused .noSuchKey => true | _ => false) = true := by decide

/-- R7: STACK_DEPTH is at least 1. -/
theorem test_bad_params_refused : (match State.construct { Params.standard with stackDepth := 0 } with | .refused .badParameters => true | _ => false) = true := by decide

/-! ## Witnesses: states and operands that meet the hypotheses of the statements -/

theorem witness_DecodeOfEncode : (Instr.sys 0x0DF).WellFormed ∧ (Instr.sys 0x0EF).WellFormed ∧ (Instr.drw 0xF 0xF 0xF).WellFormed := by decide

theorem witness_EncodeOfDecode : decode 0x00ED = .op (.sys 0x0ED) ∧ decode 0xFF65 = .op (.ldVxMi 0xF) := by decide

/-- Each clause at a word beside a known one. -/
theorem witness_UnknownWordsExactly : decode 0x500F = .unknown 0x500F ∧ decode 0x5FF0 = .op (.seVxVy 0xF 0xF) ∧ decode 0x800D = .unknown 0x800D ∧
    decode 0x800F = .unknown 0x800F ∧ decode 0x900F = .unknown 0x900F ∧ decode 0xE09F = .unknown 0xE09F ∧ decode 0xF000 = .unknown 0xF000 := by decide

/-- A reset machine with a word placed at PC. -/
def placed (word : Nat) : State := r0.withFetchWord 16 word

/-- The same machine under other parameters. -/
def placedWith (p : Params) (word : Nat) : State := (State.resetWith p).withFetchWord 16 word

theorem witness_StepRunsTheDecodedInstruction : (placed 0x6A02).fault = none ∧ (placed 0x6A02).pc.toNat + 1 ≤ 0xFFF ∧
    decode (Memory.read (placed 0x6A02).mem 0x200 ++ Memory.read (placed 0x6A02).mem 0x201) = .op (.ldVxNn 0xA 0x02) := by decide

theorem witness_FetchBeyondMemoryErrs : (r0.setPC 0xFFF).fault = none ∧ 0xFFF ≤ (r0.setPC 0xFFF).pc.toNat := by decide

theorem witness_UnknownWordPolicy : (placed 0x5121).fault = none ∧ (placed 0x5121).params.unknownOpcodePolicy = .halt ∧
    decode (Memory.read (placed 0x5121).mem 0x200 ++ Memory.read (placed 0x5121).mem 0x201) = .unknown 0x5121 ∧
    (withParams { Params.standard with unknownOpcodePolicy := .skip } (placed 0x5121)).params.unknownOpcodePolicy = .skip := by decide

/-- A faulted machine. -/
def latched : State := r0.setFault (some ⟨.decodeError, 0x200, 0x0000⟩)

theorem witness_FaultedMachineStays : latched.fault = some ⟨.decodeError, 0x200, 0x0000⟩ ∧ hostOp .tickTimers ⟨latched, false⟩ = .next ⟨tickTimers latched, false⟩ := ⟨rfl, rfl⟩

/-- Also for ErrorsArePrecise. -/
theorem witness_StepRaisesExactlyTheTable : r0.fault = none ∧ step r0 = .next latched ∧ expectedError r0 = latched.fault := ⟨rfl, rfl, by decide⟩

/-- A witness for each clause: an error, a return, jumps, a skip, a wait and an advance. -/
theorem witness_NextPcOfAnInstruction : (raisedBy .ret r0 = some .stackUnderflow ∧ exec .ret r0 = .next (r0.setFault (some ⟨.stackUnderflow, 0x200, 0x00EE⟩))) ∧
    (raisedBy .ret { r0 with sp := 1 } = none ∧ exec .ret { r0 with sp := 1 } = .next (r0.setPC 0)) ∧
    (raisedBy (.jp 0xFFF) r0 = none ∧ exec (.jp 0xFFF) r0 = .next (r0.setPC 0xFFF)) ∧
    (raisedBy (.jpV0 0xFFF) (regs [(0, 0xFF)] r0) = none ∧ exec (.jpV0 0xFFF) (regs [(0, 0xFF)] r0) = .next ((regs [(0, 0xFF)] r0).setPC 0x10FE)) ∧
    (raisedBy (.seVxNn 0 0) r0 = none ∧ exec (.seVxNn 0 0) r0 = .next (r0.setPC 0x204)) ∧
    (raisedBy (.ldVxK 0) r0 = none ∧ exec (.ldVxK 0) r0 = .next r0) ∧
    (raisedBy .cls r0 = none ∧ exec .cls r0 = .next r0.advance) := by
  refine ⟨⟨?_, ?_⟩, ⟨?_, ?_⟩, ⟨?_, ?_⟩, ⟨?_, ?_⟩, ⟨?_, ?_⟩, ⟨?_, ?_⟩, ⟨?_, ?_⟩⟩ <;> rfl

theorem witness_SkipHolds_and_Waits : Claims.SkipHolds (.seVxNn 0 0) r0 ∧ Claims.Waits (.ldVxK 0) r0 :=
  ⟨.inl ⟨0, 0, .inl ⟨rfl, rfl⟩⟩, 0, rfl, by decide⟩

/-- The premises Inv, PcBound, LatchAtPC and Params.wf of the invariants. -/
theorem witness_invariants_at_reset : r0.Inv ∧ r0.PcBound ∧ Params.standard.wf :=
  ⟨by decide, ⟨by decide, fun _ h => by rw [(List.mem_replicate.mp h).2]; decide⟩, by decide⟩

theorem witness_latch_at_reset : r0.LatchAtPC := by
  intro r h
  have h0 : r0.fault = none := rfl
  rw [h0] at h
  cases h

theorem witness_StepKeepsInvariant : r0.Inv ∧ step r0 = .next latched := ⟨by decide, rfl⟩

theorem witness_StepKeepsPcBound : r0.PcBound ∧ step r0 = .next latched := ⟨witness_invariants_at_reset.2.1, rfl⟩

theorem witness_StepKeepsLatchAtPC : r0.LatchAtPC ∧ step r0 = .next latched := ⟨witness_latch_at_reset, rfl⟩

theorem witness_ParametersAndKeysAreTheHosts : hostOp .tickTimers ⟨r0, true⟩ = .next ⟨r0, true⟩ ∧ step (pressed [7] r0) = .next (latched.setKeys (pressed [7] r0).key) := ⟨rfl, rfl⟩

theorem witness_HostSessionsKeepInvariants : runHost [.load [], .soundActive, .setKeyState 0xF true] ⟨r0, true⟩ =
    .next ⟨(loadState [] r0).setKeys (r0.key.set 0xF true), false⟩ ∧ runSession Params.standard [] [] = .next ⟨loadState [] r0, false⟩ := ⟨rfl, rfl⟩

theorem witness_OnlyStoresWriteMemory : ∃ t, exec (.ldBVx 0) ((regs [(0, 7)] r0).setI 0x300) = .next t ∧ t.mem ≠ r0.mem := ⟨_, rfl, by decide⟩

theorem witness_OnlyDisplayWritesFramebuffer : exec .cls (r0.setFB [⟨0, 0⟩]) = .next r0.advance ∧ r0.advance.fb ≠ (r0.setFB [⟨0, 0⟩]).fb := ⟨rfl, by decide⟩

theorem witness_OnlyCallAndReturnChangeTheStack : ∃ t, exec (.call 0x300) r0 = .next t ∧ (t.stack ≠ r0.stack ∨ t.sp ≠ r0.sp) := ⟨_, rfl, by decide⟩

theorem witness_OnlyTimerSettersWriteTimers : ∃ t u, exec (.ldDtVx 0) (regs [(0, 1)] r0) = .next t ∧ t.dt ≠ r0.dt ∧
    exec (.ldStVx 0) (regs [(0, 1)] r0) = .next u ∧ u.st ≠ r0.st := ⟨_, _, rfl, by decide, rfl, by decide⟩

theorem witness_OnlyIndexInstructionsWriteI : ∃ t, exec (.ldINnn 0xFFF) r0 = .next t ∧ t.i ≠ r0.i := ⟨_, rfl, by decide⟩

theorem witness_DeadStackEntriesAreNotObservable : Claims.AgreeBelowSP { r0 with sp := 1 } { r0 with sp := 1, stack := r0.stack.set 1 0x204 } := by
  refine ⟨rfl, by decide, fun k hk => ?_⟩
  have hk0 : k = 0 := Nat.lt_one_iff.mp hk
  subst hk0; rfl

/-- A machine ready to draw one byte at the right edge. -/
def drawing (e : DrawEdge) : State :=
  withParams { Params.standard with drawEdge := e } (bytesAt 0xFFF [0xC0] ((regs [(0, 63)] r0).setI 0xFFF))

/-- The last byte of memory, at the last column. -/
theorem witness_DrawWrapTogglesTheSprite : (drawing .wrap).Inv ∧ (drawing .wrap).params.drawEdge = .wrap ∧ 8 ≤ (drawing .wrap).params.displayW ∧
    (1#4).toNat ≤ (drawing .wrap).params.displayH ∧ (drawing .wrap).i.toNat + (1#4).toNat ≤ 0x1000 ∧
    (drawing .wrap).drawnCells 0 1 1 = [⟨63, 0⟩, ⟨0, 0⟩] := by decide

/-- A display 4 wide, on which a row of 8 touches each cell twice, and each clause at the edge of memory. -/
theorem witness_DrawWrapOnAnyDisplay :
    (withParams { Params.standard with displayW := 4 } (bytesAt 0xFFF [0xFF] (r0.setI 0xFFF))).Inv ∧
    Claims.touches (withParams { Params.standard with displayW := 4 } (bytesAt 0xFFF [0xFF] (r0.setI 0xFFF))) 0 0 1 ⟨0, 0⟩ = 2 ∧
    (drawing .wrap).i.toNat + (1#4).toNat - 1 ≤ 0xFFF ∧ 0xFFF < (drawing .wrap).i.toNat + (2#4).toNat - 1 := by decide

/-- Each clause: a height of 1 is in range, a height of 2 is not. -/
theorem witness_DrawClipTogglesTheVisiblePart : (drawing .clip).Inv ∧ (drawing .clip).params.drawEdge = .clip ∧ (drawing .clip).i.toNat + (1#4).toNat ≤ 0x1000 ∧
    0x1000 < (drawing .clip).i.toNat + (2#4).toNat ∧ (drawing .clip).drawnCells 0 1 1 = [⟨63, 0⟩] := by decide

theorem witness_DrawHeightZeroAndBounds : 0 < (2#4).toNat ∧ 0x1000 < (drawing .wrap).i.toNat + (2#4).toNat := by decide

theorem witness_DrawTwiceRestores : (drawing .wrap).Inv ∧ (0 : Nibble) ≠ 0xF#4 ∧ (1 : Nibble) ≠ 0xF#4 ∧ (drawing .wrap).i.toNat + (1#4).toNat ≤ 0x1000 ∧
    (drawing .wrap).fb = [] ∧ (drawing .wrap).params.drawEdge = .wrap ∧ Memory.read (drawing .wrap).mem 0xFFF ≠ 0#8 := by decide

theorem witness_SysFollowsItsPolicy : r0.params.sysPolicy = .fault ∧ (withParams { Params.standard with sysPolicy := .nop } r0).params.sysPolicy = .nop := by decide

theorem witness_ReturnPopsIntoPc : r0.sp = 0 ∧ ({ r0 with sp := 16 } : State).sp ≠ 0 := by decide

/-- Both clauses at the edge of the stack; also for SubroutineRoundTrip. -/
theorem witness_CallPushesTheReturnAddress : ({ r0 with sp := 16 } : State).sp = r0.params.stackDepth ∧ ({ r0 with sp := 15 } : State).sp ≠ r0.params.stackDepth ∧
    ({ r0 with sp := 15 } : State).sp < r0.stack.length := by decide

theorem witness_JumpWithOffsetIsNotMasked : r0.params.jumpOffsetUsesVX = false ∧ (withParams { Params.standard with jumpOffsetUsesVX := true } r0).params.jumpOffsetUsesVX = true := by decide

theorem witness_SubroutineRoundTrip : ({ r0 with sp := 15 } : State).sp < r0.params.stackDepth ∧ r0.stack.length = r0.params.stackDepth ∧
    ∃ t, exec (.call 0x300) { r0 with sp := 15 } = .next t ∧ (t.setPC 0x400).sp = t.sp ∧ (t.setPC 0x400).stack = t.stack := ⟨by decide, by decide, _, rfl, rfl, rfl⟩

theorem witness_LogicOperations : r0.params.logicResetsVF = false ∧ (withParams { Params.standard with logicResetsVF := true } r0).params.logicResetsVF = true := by decide

/-- The clauses x ≠ 0xF of the arithmetic statements leave X = 0xF to the flag clause. -/
theorem witness_flag_is_the_destination : (exec (.addVxVy 0xF 0) (regs [(0xF, 0xFF), (0, 1)] r0) = .next (regs [(0xF, 1), (0, 1)] r0).advance) := rfl

theorem witness_ShiftsMoveTheBitOutIntoVF : (0x81 : Byte) = (if r0.params.shiftUsesVY = true then (regs [(2, 0x81)] r0).getV 1 else (regs [(2, 0x81)] r0).getV 2) := by decide

theorem witness_KeySkips : (pressed [0xF] r0).key[15] = true ∧ r0.key[0] = false := by decide

theorem witness_KeyWaitTakesTheLeastKey : (pressed [9, 4] r0).keyPressed 4 = true ∧ (∀ j : Nibble, j.toNat < (4#4).toNat → (pressed [9, 4] r0).keyPressed j = false) ∧
    ∀ k : Nibble, r0.keyPressed k = false := by decide

theorem witness_AddToIndexSetsOverflow : r0.params.addIndexSetsVF = true ∧ (withParams { Params.standard with addIndexSetsVF := false } r0).params.addIndexSetsVF = false := by decide

theorem witness_BcdStoresThreeDigits : Memory.wf r0.mem ∧ (r0.setI 0xFFD).i.toNat + 2 ≤ 0xFFF ∧ 0xFFF < (r0.setI 0xFFE).i.toNat + 2 := by decide

/-- Both clauses of StoreRegistersAtI and of LoadRegistersFromI. -/
theorem witness_StoreAndLoadRegisters : Memory.wf r0.mem ∧ (r0.setI 0xFF0).i.toNat + (0xF#4).toNat ≤ 0xFFF ∧ 0xFFF < (r0.setI 0xFF1).i.toNat + (0xF#4).toNat := by decide

theorem witness_StoredCodeIsFetched : Memory.wf (r0.setI 0xFFE).mem ∧ (r0.setI 0xFFE).fault = none ∧ 1 ≤ (1#4).toNat ∧ (r0.setI 0xFFE).i.toNat + (1#4).toNat ≤ 0xFFF ∧
    decode ((regs [(0, 0x12), (1, 0x0A)] r0).getV 0 ++ (regs [(0, 0x12), (1, 0x0A)] r0).getV 1) = .op (.jp 0x20A) := by decide

/-- Each clause: in order and out of order, 3584 bytes and 3585; an operation that leaves `load` possible. -/
theorem witness_LoadOncePlacesFontAndProgram : Session.construct Params.standard = .next ⟨r0, true⟩ ∧
    r0.params.wf ∧ Memory.wf r0.mem ∧ (List.replicate 3584 0#8).length ≤ 3584 ∧ 3584 < (List.replicate 3585 0#8).length ∧
    (Session.mk r0 true).loadable = true ∧ (Session.mk r0 false).loadable = false ∧ hostOp .tickTimers ⟨r0, true⟩ = .next ⟨r0, true⟩ :=
  ⟨rfl, by decide, by decide, Nat.le_of_eq List.length_replicate, by rw [List.length_replicate]; omega, rfl, rfl, rfl⟩

theorem witness_HostReadsAndKeys : 0 < r0.params.displayW ∧ 31 < r0.params.displayH ∧ 16 ≤ 16 := by decide

theorem witness_IdleEndStays : (placed 0x1200).idle := by decide

end Sys2Proof.Tests
end

section
/-! SUPPORT. What an instruction does, said once: it raises the error of the table R231 and writes only the latch, or it
completes. A whole-machine statement about `exec` splits on `exec_eq_next_cases` and then speaks of `completed` alone. -/

namespace Sys2Proof.Machine

/-- The state in which an instruction leaves the machine when it raises no error: the success branch of its arm of
`exec` (tied to it by `exec_cases`). -/
def completed (i : Instr) (s : State) : State :=
  match i with
  | .sys _ => s.advance
  | .cls => (s.setFB []).advance
  | .ret => s.pop.setPC (s.stackAt (s.sp - 1))
  | .jp nnn => s.setPC (zext16 nnn)
  | .call nnn => (s.push (s.pc + 2#16)).setPC (zext16 nnn)
  | .seVxNn x nn => s.skipIf (s.getV x == nn)
  | .sneVxNn x nn => s.skipIf (s.getV x != nn)
  | .seVxVy x y => s.skipIf (s.getV x == s.getV y)
  | .ldVxNn x nn => (s.setV x nn).advance
  | .addVxNn x nn => (s.setV x (addTrunc (s.getV x) nn)).advance
  | .ldVxVy x y => (s.setV x (s.getV y)).advance
  | .or x y => (s.setV x (s.getV x ||| s.getV y)).logicFlag.advance
  | .and x y => (s.setV x (s.getV x &&& s.getV y)).logicFlag.advance
  | .xor x y => (s.setV x (s.getV x ^^^ s.getV y)).logicFlag.advance
  | .addVxVy x y =>
    ((s.setV x (addTrunc (s.getV x) (s.getV y))).writeFlag (carryFlag (s.getV x) (s.getV y))).advance
  | .sub x y =>
    ((s.setV x (subTrunc (s.getV x) (s.getV y))).writeFlag (noBorrowFlag (s.getV x) (s.getV y))).advance
  | .shr x y => ((s.setV x (s.shiftSource x y >>> 1)).writeFlag (lsbFlag (s.shiftSource x y))).advance
  | .subn x y =>
    ((s.setV x (subTrunc (s.getV y) (s.getV x))).writeFlag (noBorrowFlag (s.getV y) (s.getV x))).advance
  | .shl x y => ((s.setV x (s.shiftSource x y <<< 1)).writeFlag (msbFlag (s.shiftSource x y))).advance
  | .sneVxVy x y => s.skipIf (s.getV x != s.getV y)
  | .ldINnn nnn => (s.setI (zext16 nnn)).advance
  | .jpV0 nnn => s.setPC (zext16 nnn + (s.jumpOffset nnn).setWidth 16)
  | .rnd x nn => (s.countDraw.setV x (Config.randByte s.draws &&& nn)).advance
  | .drw x y n =>
    ((s.setFB (drawCells s.fb false (s.drawnCells x y n)).1).writeFlag
      (drawCells s.fb false (s.drawnCells x y n)).2).advance
  | .skp x => s.skipIf (s.keyPressed (s.lowNibble x))
  | .sknp x => s.skipIf (!s.keyPressed (s.lowNibble x))
  | .ldVxDt x => (s.setV x s.dt).advance
  | .ldVxK x => s.leastKey.elim s fun k => (s.setV x (BitVec.ofNat 8 k)).advance
  | .ldDtVx x => (s.setDT (s.getV x)).advance
  | .ldStVx x => (s.setST (s.getV x)).advance
  | .addIVx x =>
    ((s.setI (BitVec.ofNat 16 (s.i.toNat + (s.getV x).toNat))).indexFlag (indexOverflowFlag s.i (s.getV x))).advance
  | .ldFVx x => (s.setI (glyphAddress s.params (s.lowNibble x))).advance
  | .ldBVx x => (s.storeAtI (bcdDigits (s.getV x))).advance
  | .ldMiVx x => ((s.storeAtI (s.regsUpTo x)).bumpIndex x).advance
  | .ldVxMi x => ((s.setRegs (writeRegs s.v 0 (s.loadAtI (x.toNat + 1)))).bumpIndex x).advance

/-- An instruction raises the error of the table, recording its own word and writing nothing else, or it completes
(R231 to R233). -/
theorem exec_cases (i : Instr) (s : State) :
    (∃ k, raisedBy i s = some k ∧ exec i s = .next (s.setFault (some ⟨k, s.pc, encode i⟩))) ∨
    (raisedBy i s = none ∧ exec i s = .next (completed i s)) := by
  cases i with
  | sys nnn => cases hp : s.params.sysPolicy <;> simp [raisedBy, exec, execSys, completed, hp]
  | ret => by_cases h : s.sp = 0 <;> simp [raisedBy, exec, execRet, completed, h]
  | call nnn => by_cases h : s.sp = s.params.stackDepth <;> simp [raisedBy, exec, execCall, completed, h]
  | drw x y n =>
    have h : s.spriteInRange n = true ↔ ¬(n.toNat > 0 ∧ s.i.toNat + n.toNat > 0x1000) := by
      rw [State.spriteInRange_iff]; omega
    by_cases hr : n.toNat > 0 ∧ s.i.toNat + n.toNat > 0x1000 <;>
      simp [raisedBy, exec, execDrw, completed, h, hr, -gt_iff_lt]
  | ldBVx x =>
    by_cases h : s.i.toNat + 2 > 0xFFF <;>
      simp [raisedBy, exec, execLdBVx, completed, State.indexInRange_iff, h, ← Nat.not_lt]
  | ldMiVx x =>
    by_cases h : s.i.toNat + x.toNat > 0xFFF <;>
      simp [raisedBy, exec, execLdMiVx, completed, State.indexInRange_iff, h, ← Nat.not_lt]
  | ldVxMi x =>
    by_cases h : s.i.toNat + x.toNat > 0xFFF <;>
      simp [raisedBy, exec, execLdVxMi, completed, State.indexInRange_iff, h, ← Nat.not_lt]
  | ldVxK x => cases h : s.leastKey <;> simp [raisedBy, exec, execLdVxK, completed, h]
  | _ => exact .inr ⟨rfl, rfl⟩

/-- Every way an instruction can answer a next state. -/
theorem exec_eq_next_cases {i : Instr} {s t : State} (h : exec i s = .next t) :
    (∃ k, raisedBy i s = some k ∧ t = s.setFault (some ⟨k, s.pc, encode i⟩)) ∨
    (raisedBy i s = none ∧ t = completed i s) := by
  obtain ⟨k, hk, he⟩ | ⟨hn, he⟩ := exec_cases i s
  · exact .inl ⟨k, hk, Host.Outcome.next.inj (h.symm.trans he)⟩
  · exact .inr ⟨hn, Host.Outcome.next.inj (h.symm.trans he)⟩

/-! ## The fields that are the host's -/

/-- No completed instruction changes the parameters (R7). -/
@[simp] theorem completed_params (i : Instr) (s : State) : (completed i s).params = s.params := by
  cases i with
  | ldVxK x => cases h : s.leastKey <;> simp [completed, h]
  | _ => simp [completed]

/-- No completed instruction changes the keys (R37). -/
@[simp] theorem completed_key (i : Instr) (s : State) : (completed i s).key = s.key := by
  cases i with
  | ldVxK x => cases h : s.leastKey <;> simp [completed, h]
  | _ => simp [completed]

/-- No instruction changes the parameters or the keys (R7, R37). -/
theorem exec_params_key {i : Instr} {s t : State} (h : exec i s = .next t) : t.params = s.params ∧ t.key = s.key := by
  obtain ⟨k, -, rfl⟩ | ⟨-, rfl⟩ := exec_eq_next_cases h
  · exact ⟨rfl, rfl⟩
  · exact ⟨completed_params i s, completed_key i s⟩

/-- No step changes the parameters or the keys: a faulted machine stays, and an error, an unknown word and an
instruction each leave both alone. -/
theorem step_params_key {s t : State} (h : step s = .next t) : t.params = s.params ∧ t.key = s.key := by
  obtain ⟨-, rfl⟩ | ⟨-, -, rfl⟩ | ⟨-, -, i, -, hi⟩ | ⟨-, -, w, -, hw⟩ := cycle_cases h
  · exact ⟨rfl, rfl⟩
  · exact ⟨rfl, rfl⟩
  · exact exec_params_key hi
  · obtain ⟨-, rfl⟩ | ⟨-, rfl⟩ := unknownWord_cases hw <;> exact ⟨rfl, rfl⟩

/-- No operation of the host changes the parameters: they are fixed at construction (R7). -/
theorem hostOp_params {o : HostOp} {h g : Session} (e : hostOp o h = .next g) : g.machine.params = h.machine.params := by
  obtain ⟨_, -, -, -, rfl⟩ | ⟨_, -, ht, rfl⟩ | ⟨-, rfl⟩ | ⟨_, _, -, -, rfl⟩ | ⟨-, rfl⟩ := hostOp_cases e
  case inr.inl => exact (step_params_key ht).1
  all_goals rfl

/-- Settles O19: the parameters by the cases of a host operation, the keys by the cases of a step. -/
theorem parametersAndKeysAreTheHosts : Obligations.ParametersAndKeysAreTheHosts :=
  ⟨fun _ _ _ e => hostOp_params e, fun _ _ h => (step_params_key h).2⟩

end Sys2Proof.Machine
end

section
/-! SUPPORT. The frame of every instruction, field by field: which instructions write the framebuffer, the call stack, the
timers and I, and the next PC. Each is a lemma about `completed`, and an instruction that changed anything but the latch
has completed. -/

namespace Sys2Proof.Machine

/-! ## Reset -/

/-- The reset state meets the relations between the fields of the state. -/
theorem inv_resetWith {p : Params} (hp : p.wf) : (State.resetWith p).Inv :=
  ⟨hp, Memory.wf_reset p, Nat.zero_le _, List.length_replicate, List.Pairwise.nil, fun _ hc => absurd hc List.not_mem_nil⟩

theorem pcBound_resetWith (p : Params) : (State.resetWith p).PcBound :=
  ⟨(by decide : 0x200 ≤ 0x10FE), fun w hw => by rw [List.eq_of_mem_replicate hw]; decide⟩

theorem latchAtPC_of_fault_none {s : State} (h : s.fault = none) : s.LatchAtPC :=
  fun r hr => absurd (h.symm.trans hr) (by simp)

/-- Settles O14: the lemmas about reset with any parameters, and the default parameters are in their domains. -/
theorem resetMeetsTheInvariants : Obligations.ResetMeetsTheInvariants :=
  ⟨⟨inv_resetWith (by decide), pcBound_resetWith _, latchAtPC_of_fault_none rfl⟩,
    fun p hp => ⟨inv_resetWith hp, pcBound_resetWith p⟩⟩

/-- Settles O57, field by field; only the register file, the keys and the stack are read through an index. -/
theorem resetValues : Obligations.ResetValues := by
  refine ⟨rfl, fun p => ⟨rfl, fun _ => rfl, fun x => ?_, rfl, rfl, rfl, fun k => ?_, rfl, rfl, fun _ => rfl, fun k => ?_, rfl⟩⟩
  · simp [State.resetWith, State.getV]
  · simp [State.resetWith, State.stackAt]
  · simp [State.resetWith, State.keyPressed]

/-! ## What an instruction writes -/

/-- An instruction that changed anything but the latch has completed. -/
theorem eq_completed_of_changes {α : Type} (f : State → α)
    (hf : ∀ (s : State) (r : Option ErrorRecord), f (s.setFault r) = f s) {i : Instr} {s t : State} (h : exec i s = .next t) (hne : f t ≠ f s) : t = completed i s := by
  obtain ⟨k, -, rfl⟩ | ⟨-, rfl⟩ := exec_eq_next_cases h
  · exact absurd (hf s _) hne
  · rfl

/-- FX0A leaves alone whatever a write to a register and an advance leave alone, also while it waits (R215). -/
theorem completed_ldVxK_frame {α : Type} (f : State → α) {s : State} {x : Nibble}
    (hf : ∀ b, f (s.setV x b).advance = f s) : f (completed (.ldVxK x) s) = f s := by
  cases h : s.leastKey with
  | none => simp [completed, h]
  | some k => simpa [completed, h] using hf _

theorem completed_mem_ne {i : Instr} {s : State} (h : (completed i s).mem ≠ s.mem) : ∃ x, i = .ldBVx x ∨ i = .ldMiVx x := by
  cases i with
  | ldBVx x => exact ⟨x, .inl rfl⟩
  | ldMiVx x => exact ⟨x, .inr rfl⟩
  | ldVxK x => exact absurd (completed_ldVxK_frame State.mem fun _ => rfl) h
  | _ => exact absurd (by simp [completed]) h

theorem completed_fb_ne {i : Instr} {s : State} (h : (completed i s).fb ≠ s.fb) : i = .cls ∨ ∃ x y n, i = .drw x y n := by
  cases i with
  | cls => exact .inl rfl
  | drw x y n => exact .inr ⟨x, y, n, rfl⟩
  | ldVxK x => exact absurd (completed_ldVxK_frame State.fb fun _ => rfl) h
  | _ => exact absurd (by simp [completed]) h

theorem completed_stack_sp_ne {i : Instr} {s : State}
    (h : ((completed i s).stack, (completed i s).sp) ≠ (s.stack, s.sp)) : i = .ret ∨ ∃ nnn, i = .call nnn := by
  cases i with
  | ret => exact .inl rfl
  | call nnn => exact .inr ⟨nnn, rfl⟩
  | ldVxK x => exact absurd (completed_ldVxK_frame (fun t => (t.stack, t.sp)) fun _ => rfl) h
  | _ => exact absurd (by simp [completed]) h

theorem completed_dt_ne {i : Instr} {s : State} (h : (completed i s).dt ≠ s.dt) :
    ∃ x, i = .ldDtVx x ∧ (completed i s).dt = s.getV x := by
  cases i with
  | ldDtVx x => exact ⟨x, rfl, rfl⟩
  | ldVxK x => exact absurd (completed_ldVxK_frame State.dt fun _ => rfl) h
  | _ => exact absurd (by simp [completed]) h

theorem completed_st_ne {i : Instr} {s : State} (h : (completed i s).st ≠ s.st) :
    ∃ x, i = .ldStVx x ∧ (completed i s).st = s.getV x := by
  cases i with
  | ldStVx x => exact ⟨x, rfl, rfl⟩
  | ldVxK x => exact absurd (completed_ldVxK_frame State.st fun _ => rfl) h
  | _ => exact absurd (by simp [completed]) h

theorem completed_i_ne {i : Instr} {s : State} (h : (completed i s).i ≠ s.i) :
    (∃ nnn, i = .ldINnn nnn) ∨ (∃ x, i = .addIVx x ∨ i = .ldFVx x) ∨
      (s.params.loadStoreIncrementsI = true ∧ ∃ x, i = .ldMiVx x ∨ i = .ldVxMi x) := by
  cases i with
  | ldINnn nnn => exact .inl ⟨nnn, rfl⟩
  | addIVx x => exact .inr (.inl ⟨x, .inl rfl⟩)
  | ldFVx x => exact .inr (.inl ⟨x, .inr rfl⟩)
  | ldMiVx x => exact .inr (.inr ⟨by_contra fun hoff => h (by simp [completed, hoff]), x, .inl rfl⟩)
  | ldVxMi x => exact .inr (.inr ⟨by_contra fun hoff => h (by simp [completed, hoff]), x, .inr rfl⟩)
  | ldVxK x => exact absurd (completed_ldVxK_frame State.i fun _ => rfl) h
  | _ => exact absurd (by simp [completed]) h

/-- Settles O21: an error leaves the framebuffer, and of the completed instructions only CLS and DRW write it. -/
theorem onlyDisplayWritesFramebuffer : Obligations.OnlyDisplayWritesFramebuffer := by
  intro i s t h hne
  obtain rfl := eq_completed_of_changes State.fb (fun _ _ => rfl) h hne
  exact completed_fb_ne hne

/-- Settles O22: the stack entries and SP as one pair, which only RET and CALL write. -/
theorem onlyCallAndReturnChangeTheStack : Obligations.OnlyCallAndReturnChangeTheStack := by
  intro i s t h hne
  have hpair : (t.stack, t.sp) ≠ (s.stack, s.sp) := fun e => hne.elim (· (Prod.mk.inj e).1) (· (Prod.mk.inj e).2)
  obtain rfl := eq_completed_of_changes (fun t => (t.stack, t.sp)) (fun _ _ => rfl) h hpair
  exact completed_stack_sp_ne hpair

/-- Settles O23: each timer by its own frame. -/
theorem onlyTimerSettersWriteTimers : Obligations.OnlyTimerSettersWriteTimers := by
  refine fun i s t h => ⟨fun hne => ?_, fun hne => ?_⟩
  · obtain rfl := eq_completed_of_changes State.dt (fun _ _ => rfl) h hne
    exact completed_dt_ne hne
  · obtain rfl := eq_completed_of_changes State.st (fun _ _ => rfl) h hne
    exact completed_st_ne hne

/-- Settles O24: FX55 and FX65 write I through `bumpIndex`, which the parameter switches. -/
theorem onlyIndexInstructionsWriteI : Obligations.OnlyIndexInstructionsWriteI := by
  intro i s t h hne
  obtain rfl := eq_completed_of_changes State.i (fun _ _ => rfl) h hne
  exact completed_i_ne hne

/-! ## The next PC -/

section SkipConditions
variable (s : State) (x y : Nibble) (nn : Byte)

@[simp] theorem skipHolds_seVxNn : Claims.SkipHolds (.seVxNn x nn) s ↔ s.getV x = nn := by
  simp [Claims.SkipHolds, eq_comm (a := nn)]
@[simp] theorem skipHolds_sneVxNn : Claims.SkipHolds (.sneVxNn x nn) s ↔ s.getV x ≠ nn := by simp [Claims.SkipHolds]
@[simp] theorem skipHolds_seVxVy : Claims.SkipHolds (.seVxVy x y) s ↔ s.getV x = s.getV y := by simp [Claims.SkipHolds]
@[simp] theorem skipHolds_sneVxVy : Claims.SkipHolds (.sneVxVy x y) s ↔ s.getV x ≠ s.getV y := by simp [Claims.SkipHolds]

/-- The low nibble of a register is its value modulo 16 (R213). -/
theorem ofNat_getV_mod : BitVec.ofNat 4 ((s.getV x).toNat % 16) = s.lowNibble x := by
  apply BitVec.eq_of_toNat_eq
  rw [State.toNat_lowNibble, BitVec.toNat_ofNat, Nat.mod_mod]

@[simp] theorem skipHolds_skp : Claims.SkipHolds (.skp x) s ↔ s.keyPressed (s.lowNibble x) = true := by
  simp [Claims.SkipHolds, ← ofNat_getV_mod]
@[simp] theorem skipHolds_sknp : Claims.SkipHolds (.sknp x) s ↔ s.keyPressed (s.lowNibble x) = false := by
  simp [Claims.SkipHolds, ← ofNat_getV_mod]

end SkipConditions

/-- Only the six skips have a condition that can hold. -/
theorem isSkip_of_skipHolds {i : Instr} {s : State} (h : Claims.SkipHolds i s) : i.isSkip := by
  obtain ⟨x, nn, ⟨rfl, -⟩ | ⟨rfl, -⟩⟩ | ⟨x, y, ⟨rfl, -⟩ | ⟨rfl, -⟩⟩ | ⟨x, ⟨rfl, -⟩ | ⟨rfl, -⟩⟩ := h <;>
    simp [Instr.isSkip]

/-- A skip moves PC by 4 when its condition holds, by 2 when it does not, and does nothing else (R28, R184). -/
theorem completed_of_isSkip {i : Instr} (hi : i.isSkip) (s : State) :
    ∃ c : Bool, completed i s = s.skipIf c ∧ (c = true ↔ Claims.SkipHolds i s) := by
  obtain ⟨x, nn, rfl | rfl⟩ | ⟨x, y, rfl | rfl⟩ | ⟨x, rfl | rfl⟩ := hi <;> exact ⟨_, rfl, by simp⟩

/-- FX0A finds no key exactly while every key is released (R215). -/
theorem leastKey_eq_none_iff_keyPressed {s : State} : s.leastKey = none ↔ ∀ k : Nibble, s.keyPressed k = false := by
  rw [State.leastKey_eq_none]
  refine ⟨fun h k => h k.toNat k.isLt, fun h k hk => ?_⟩
  have hk16 : k % 16 = k := Nat.mod_eq_of_lt hk
  simpa [State.keyPressed, hk16] using h (BitVec.ofNat 4 k)

theorem completed_of_waits {i : Instr} {s : State} (h : Claims.Waits i s) : completed i s = s := by
  obtain ⟨x, rfl, hk⟩ := h
  simp [completed, leastKey_eq_none_iff_keyPressed.mpr hk]

theorem completed_pc_of_skipHolds {i : Instr} {s : State} (h : Claims.SkipHolds i s) :
    (completed i s).pc = s.pc + 4#16 := by
  obtain ⟨c, hc, hiff⟩ := completed_of_isSkip (isSkip_of_skipHolds h) s
  simp [hc, hiff.mpr h]

/-- Every instruction that is no transfer, no skip that holds and no wait advances PC by 2 (R28). -/
theorem completed_pc_of_advances {i : Instr} {s : State} (ht : ¬i.isTransfer) (hs : ¬Claims.SkipHolds i s)
    (hw : ¬Claims.Waits i s) : (completed i s).pc = s.pc + 2#16 := by
  by_cases hi : i.isSkip
  · obtain ⟨c, hc, hiff⟩ := completed_of_isSkip hi s
    simp [hc, mt hiff.mp hs]
  · cases i with
    | ret | jp | call | jpV0 => simp [Instr.isTransfer] at ht
    | seVxNn | sneVxNn | seVxVy | sneVxVy | skp | sknp => simp [Instr.isSkip] at hi
    | ldVxK x =>
      cases hk : s.leastKey with
      | none => exact absurd ⟨x, rfl, leastKey_eq_none_iff_keyPressed.mp hk⟩ hw
      | some k => simp [completed, hk]
    | _ => simp [completed]

/-- The target of JP V0 is the integer sum: no address and offset reach 2^16 (R134). -/
theorem toNat_zext16_add (nnn : Addr) (b : Byte) : (zext16 nnn + b.setWidth 16).toNat = nnn.toNat + b.toNat := by
  have hn := nnn.isLt
  have hb := b.isLt
  rw [BitVec.toNat_add, toNat_zext16, BitVec.toNat_setWidth]
  omega

/-- The offset register of JP V0 by number (R134). -/
theorem State.jumpOffset_eq (s : State) (nnn : Addr) : s.jumpOffset nnn =
    s.getV (if s.params.jumpOffsetUsesVX = true then BitVec.ofNat 4 (nnn.toNat / 0x100) else 0x0#4) := by
  have hx : nnn.extractLsb' 8 4 = BitVec.ofNat 4 (nnn.toNat / 0x100) := by
    apply BitVec.eq_of_toNat_eq
    simp [Nat.shiftRight_eq_div_pow]
  unfold State.jumpOffset
  split <;> simp [hx]

/-- Settles O13: an error leaves PC; for a completed instruction each clause is the lemma of its class. -/
theorem nextPcOfAnInstruction : Obligations.NextPcOfAnInstruction := by
  intro i s t h
  obtain ⟨k, hk, rfl⟩ | ⟨hn, rfl⟩ := exec_eq_next_cases h
  · exact ⟨fun _ => rfl, fun hn => absurd (hk.symm.trans hn) (by simp)⟩
  · refine ⟨fun ⟨k, hk⟩ => absurd (hn.symm.trans hk) (by simp), fun _ => ⟨?_, ?_, ?_, completed_pc_of_skipHolds, ?_,
      completed_pc_of_advances⟩⟩
    · rintro rfl; rfl
    · rintro nnn (rfl | rfl) <;> exact (BitVec.ofNat_toNat 16 nnn).symm
    · rintro nnn rfl
      rw [← State.jumpOffset_eq]
      exact toNat_zext16_add nnn _
    · exact fun hw => congrArg State.pc (completed_of_waits hw)

end Sys2Proof.Machine
end

section
/-! SUPPORT. What every step keeps: each way a step can answer, said once, and from it the relations between the fields and
the bounds of PC and of the stack entries. -/

namespace Sys2Proof.Machine

/-- Every way a step can answer: a faulted machine stays, an error writes the latch alone, an unknown word is skipped, or
an instruction completes (R235 to R237, R247). -/
theorem step_cases {s t : State} (h : step s = .next t) :
    (s.fault ≠ none ∧ t = s) ∨ (∃ k w, t = s.setFault (some ⟨k, s.pc, w⟩)) ∨
    (s.fetchInRange = true ∧ t = s.advance) ∨
    (s.fetchInRange = true ∧ ∃ i, raisedBy i s = none ∧ t = completed i s) := by
  obtain hs | ⟨-, -, rfl⟩ | ⟨-, hr, i, -, hi⟩ | ⟨-, hr, w, -, hw⟩ := cycle_cases h
  · exact .inl hs
  · exact .inr (.inl ⟨_, _, rfl⟩)
  · obtain ⟨k, -, rfl⟩ | ⟨hn, rfl⟩ := exec_eq_next_cases hi
    · exact .inr (.inl ⟨_, _, rfl⟩)
    · exact .inr (.inr (.inr ⟨hr, i, hn, rfl⟩))
  · obtain ⟨-, rfl⟩ | ⟨-, rfl⟩ := unknownWord_cases hw
    · exact .inr (.inl ⟨_, _, rfl⟩)
    · exact .inr (.inr (.inl ⟨hr, rfl⟩))

/-! ## The relations between the fields -/

/-- The two stores write inside memory when they raise no error (R53, R194, R195). -/
theorem completed_mem_wf {i : Instr} {s : State} (hm : Memory.wf s.mem) (hn : raisedBy i s = none) :
    Memory.wf (completed i s).mem := by
  by_cases h : (completed i s).mem = s.mem
  · rwa [h]
  · obtain ⟨x, rfl | rfl⟩ := completed_mem_ne h
    · have hi : s.i.toNat + 2 ≤ 0xFFF := by simpa [raisedBy] using hn
      exact Memory.wf_writeBytes _ hm (by simp only [bcdDigits, List.length_cons, List.length_nil, memSize]; omega)
    · have hi : s.i.toNat + x.toNat ≤ 0xFFF := by simpa [raisedBy] using hn
      simpa [completed] using Memory.wf_writeBytes (s.regsUpTo x) hm (by simp only [State.length_regsUpTo, memSize]; omega)

/-- RET lowers SP, and CALL raises it only while the stack has room (R131, R133). -/
theorem completed_stack_keeps {i : Instr} {s : State} (hsp : s.sp ≤ s.params.stackDepth)
    (hlen : s.stack.length = s.params.stackDepth) (hn : raisedBy i s = none) :
    (completed i s).sp ≤ s.params.stackDepth ∧ (completed i s).stack.length = s.params.stackDepth := by
  by_cases h : ((completed i s).stack, (completed i s).sp) = (s.stack, s.sp)
  · obtain ⟨hst, hs⟩ := Prod.mk.inj h
    rw [hs, hst]
    exact ⟨hsp, hlen⟩
  · obtain rfl | ⟨nnn, rfl⟩ := completed_stack_sp_ne h
    · exact ⟨Nat.sub_le_of_le_add (Nat.le_succ_of_le hsp), hlen⟩
    · have hroom : s.sp ≠ s.params.stackDepth := by simpa [raisedBy] using hn
      exact ⟨Nat.lt_of_le_of_ne hsp hroom, (List.length_set ..).trans hlen⟩

/-- CLS lists no cell, and DRW toggles cells of the grid alone (R110, R111). -/
theorem completed_fb_wf {i : Instr} {s : State} (hp : s.params.wf) (hfb : Framebuffer.wf s.params s.fb) :
    Framebuffer.wf s.params (completed i s).fb := by
  by_cases h : (completed i s).fb = s.fb
  · rwa [h]
  · obtain rfl | ⟨x, y, n, rfl⟩ := completed_fb_ne h
    · exact ⟨List.Pairwise.nil, fun _ hc => absurd hc List.not_mem_nil⟩
    · exact wf_drawCells false hfb (spriteCells_in_grid hp)

theorem completed_inv {i : Instr} {s : State} (h : s.Inv) (hn : raisedBy i s = none) : (completed i s).Inv := by
  obtain ⟨hp, hm, hsp, hlen, hfb⟩ := h
  obtain ⟨hsp', hlen'⟩ := completed_stack_keeps hsp hlen hn
  unfold State.Inv
  rw [completed_params]
  exact ⟨hp, completed_mem_wf hm hn, hsp', hlen', completed_fb_wf hp hfb⟩

/-- Settles O15, by the cases of a step: only a completed instruction touches the fields that Inv relates. -/
theorem stepKeepsInvariant : Obligations.StepKeepsInvariant := by
  intro s t h hs
  obtain ⟨-, rfl⟩ | ⟨k, w, rfl⟩ | ⟨-, rfl⟩ | ⟨-, i, hn, rfl⟩ := step_cases hs
  · exact h
  · exact h
  · exact h
  · exact completed_inv h hn

/-! ## The bounds of PC and of the stack entries -/

/-- `STACK[k]` is an entry of the stack, or 0 beyond it. -/
theorem State.stackAt_le {s : State} (h : ∀ w ∈ s.stack, w.toNat ≤ 0x1000) (k : Nat) : (s.stackAt k).toNat ≤ 0x1000 := by
  unfold State.stackAt
  by_cases hk : k < s.stack.length
  · rw [List.getD_eq_getElem _ _ hk]
    exact h _ (List.getElem_mem hk)
  · rw [List.getD_eq_default _ _ (Nat.le_of_not_lt hk)]
    decide

/-- An advance of at most 4 from where a word was fetched stays far below 2^16 (R28). -/
theorem toNat_add_le_of_fetchInRange {s : State} (hr : s.fetchInRange = true) {c : Word} (hc : c.toNat ≤ 4) :
    (s.pc + c).toNat ≤ 0xFFE + c.toNat := by
  have hpc := (State.fetchInRange_iff s).mp hr
  rw [BitVec.toNat_add]
  omega

/-- JP and CALL reach 0xFFF at most, JP V0 0xFFF + 0xFF, and RET the bound of the entries (R131 to R134). -/
theorem completed_pc_le_of_isTransfer {i : Instr} {s : State} (hi : i.isTransfer)
    (hst : ∀ w ∈ s.stack, w.toNat ≤ 0x1000) : (completed i s).pc.toNat ≤ 0x10FE := by
  have htarget (nnn : Addr) : (zext16 nnn).toNat ≤ 0x10FE := by
    have hlt := nnn.isLt
    rw [toNat_zext16]
    omega
  obtain rfl | ⟨nnn, rfl | rfl | rfl⟩ := hi
  · exact (State.stackAt_le hst _).trans (by decide)
  · exact htarget nnn
  · exact htarget nnn
  · have hn := nnn.isLt
    have hb := (s.jumpOffset nnn).isLt
    simp only [completed, State.setPC_pc, toNat_zext16_add]
    omega

theorem completed_pc_le {i : Instr} {s : State} (h : s.PcBound) (hr : s.fetchInRange = true) :
    (completed i s).pc.toNat ≤ 0x10FE := by
  by_cases ht : i.isTransfer
  · exact completed_pc_le_of_isTransfer ht h.2
  by_cases hs : Claims.SkipHolds i s
  · rw [completed_pc_of_skipHolds hs]
    exact (toNat_add_le_of_fetchInRange hr (by decide)).trans (by decide)
  by_cases hw : Claims.Waits i s
  · rw [completed_of_waits hw]
    exact h.1
  · rw [completed_pc_of_advances ht hs hw]
    exact (toNat_add_le_of_fetchInRange hr (by decide)).trans (by decide)

/-- CALL stores the one new entry, the address after a word that was fetched from memory (R133). -/
theorem completed_stack_le {i : Instr} {s : State} (hst : ∀ w ∈ s.stack, w.toNat ≤ 0x1000)
    (hr : s.fetchInRange = true) : ∀ w ∈ (completed i s).stack, w.toNat ≤ 0x1000 := by
  by_cases h : (completed i s).stack = s.stack
  · rwa [h]
  · obtain rfl | ⟨nnn, rfl⟩ := completed_stack_sp_ne (fun e => h (Prod.mk.inj e).1)
    · exact hst
    · intro w hw
      obtain hw | rfl := List.mem_or_eq_of_mem_set hw
      · exact hst w hw
      · exact toNat_add_le_of_fetchInRange hr (by decide)

/-- Settles O16, by the cases of a step: what moves PC was fetched from memory, so PC was at most 0xFFE. -/
theorem stepKeepsPcBound : Obligations.StepKeepsPcBound := by
  intro s t h hs
  obtain ⟨-, rfl⟩ | ⟨k, w, rfl⟩ | ⟨hr, rfl⟩ | ⟨hr, i, -, rfl⟩ := step_cases hs
  · exact h
  · exact h
  · exact ⟨(toNat_add_le_of_fetchInRange hr (by decide)).trans (by decide), h.2⟩
  · exact ⟨completed_pc_le h hr, completed_stack_le h.2 hr⟩

end Sys2Proof.Machine
end

section
/-! SUPPORT. What a step cannot learn: two machines that differ only in stack entries at or above SP, or only in ST, take the
same branch of every test, and the instructions other than RET, CALL and FX18 carry the difference along unread. -/

namespace Sys2Proof.Machine

/-! ## A step as an equation, one per branch -/

section Branches
variable {s : State}

theorem step_of_fault {r : ErrorRecord} (hf : s.fault = some r) : step s = .next s := by
  simp [step, cycle, hf]

theorem step_of_fetch_fails (hf : s.fault = none) (hr : s.fetchInRange = false) :
    step s = .next (s.setFault (some ⟨.memoryOutOfBounds, s.pc, 0x0000#16⟩)) := by
  simp [step, cycle, hf, hr]

theorem step_of_op {i : Instr} (hf : s.fault = none) (hr : s.fetchInRange = true) (hd : decode s.fetchWord = .op i) :
    step s = exec i s := by
  simp [step, cycle, hf, hr, hd]

theorem step_of_unknown {w : Word} (hf : s.fault = none) (hr : s.fetchInRange = true)
    (hd : decode s.fetchWord = .unknown w) : step s = unknownWord w s := by
  simp [step, cycle, hf, hr, hd]

theorem unknownWord_of_halt {w : Word} (hp : s.params.unknownOpcodePolicy = .halt) :
    unknownWord w s = .next (s.setFault (some ⟨.decodeError, s.pc, w⟩)) := by
  simp [unknownWord, hp]

theorem unknownWord_of_skip {w : Word} (hp : s.params.unknownOpcodePolicy = .skip) :
    unknownWord w s = .next s.advance := by
  simp [unknownWord, hp]

theorem exec_of_raised {i : Instr} {e : ErrorKind} (h : raisedBy i s = some e) :
    exec i s = .next (s.setFault (some ⟨e, s.pc, encode i⟩)) := by
  obtain ⟨e', he, hx⟩ | ⟨hn, -⟩ := exec_cases i s
  · obtain rfl := Option.some.inj (he.symm.trans h)
    exact hx
  · exact absurd (hn.symm.trans h) (by simp)

theorem exec_of_completes {i : Instr} (h : raisedBy i s = none) : exec i s = .next (completed i s) := by
  obtain ⟨e, he, -⟩ | ⟨-, hx⟩ := exec_cases i s
  · exact absurd (he.symm.trans h) (by simp)
  · exact hx

end Branches

/-! ## Carrying a difference in the stack entries or in ST -/

/-- The state with other stack entries and another ST, the two pieces of state whose influence is bounded. -/
def State.withUnread (s : State) (stack : List Word) (st : Byte) : State := { s with stack := stack, st := st }

/-- No error depends on a stack entry or on ST (R231). -/
theorem raisedBy_withUnread (i : Instr) (s : State) (k : List Word) (b : Byte) :
    raisedBy i (s.withUnread k b) = raisedBy i s := by
  cases i <;> rfl

section Carried
variable (s : State) (k : List Word) (b : Byte)

theorem State.logicFlag_withUnread : (s.withUnread k b).logicFlag = s.logicFlag.withUnread k b := by
  unfold State.logicFlag
  exact (apply_ite (fun t : State => t.withUnread k b) (s.params.logicResetsVF = true) (s.writeFlag false) s).symm

theorem State.indexFlag_withUnread (c : Bool) : (s.withUnread k b).indexFlag c = (s.indexFlag c).withUnread k b := by
  unfold State.indexFlag
  exact (apply_ite (fun t : State => t.withUnread k b) (s.params.addIndexSetsVF = true) (s.writeFlag c) s).symm

theorem State.bumpIndex_withUnread (x : Nibble) : (s.withUnread k b).bumpIndex x = (s.bumpIndex x).withUnread k b := by
  unfold State.bumpIndex
  exact (apply_ite (fun t : State => t.withUnread k b) (s.params.loadStoreIncrementsI = true) (s.setI _) s).symm

end Carried

/-- The three instructions that read or write a stack entry or ST (R30, R34). -/
def touchesUnread (i : Instr) : Prop := i = .ret ∨ (∃ nnn, i = .call nnn) ∨ ∃ x, i = .ldStVx x

/-- Every other instruction carries the stack entries and ST along and does the same whatever they are. -/
theorem completed_withUnread {i : Instr} (hi : ¬touchesUnread i) (s : State) (k : List Word) (b : Byte) :
    completed i (s.withUnread k b) = (completed i s).withUnread k b := by
  cases i with
  | ret | call | ldStVx => simp [touchesUnread] at hi
  | or x y | and x y | xor x y => exact congrArg State.advance (State.logicFlag_withUnread (s.setV x _) k b)
  | addIVx x => exact congrArg State.advance (State.indexFlag_withUnread (s.setI _) k b _)
  | ldMiVx x => exact congrArg State.advance (State.bumpIndex_withUnread (s.storeAtI _) k b x)
  | ldVxMi x => exact congrArg State.advance (State.bumpIndex_withUnread (s.setRegs _) k b x)
  | ldVxK x =>
    have hkey : (s.withUnread k b).leastKey = s.leastKey := rfl
    cases h : s.leastKey <;> simp only [completed, hkey, h] <;> rfl
  | _ => rfl

theorem completed_stack_sp_of_not_touchesUnread {i : Instr} (hi : ¬touchesUnread i) (s : State) :
    (completed i s).stack = s.stack ∧ (completed i s).sp = s.sp := by
  by_contra hne
  exact hi ((completed_stack_sp_ne (mt Prod.mk.inj hne)).imp_right .inl)

theorem completed_st_of_not_touchesUnread {i : Instr} (hi : ¬touchesUnread i) (s : State) :
    (completed i s).st = s.st := by
  by_contra hne
  obtain ⟨x, hx, -⟩ := completed_st_ne hne
  exact hi (.inr (.inr ⟨x, hx⟩))

/-- A relation between the two states that an error, an advance and every completed instruction keep is kept by a step:
both fetch the same word and take the same branch of every test (R237). -/
theorem step_withUnread {R : State → State → Prop} {s : State} {k : List Word} {b : Byte} (h : R s (s.withUnread k b))
    (herr : ∀ r, R (s.setFault r) ((s.setFault r).withUnread k b)) (hadv : R s.advance (s.advance.withUnread k b))
    (hcomp : ∀ i, raisedBy i s = none → R (completed i s) (completed i (s.withUnread k b))) :
    ∃ t t', step s = .next t ∧ step (s.withUnread k b) = .next t' ∧ R t t' := by
  cases hf : s.fault with
  | some r => exact ⟨_, _, step_of_fault hf, step_of_fault (s := s.withUnread k b) hf, h⟩
  | none =>
    cases hr : s.fetchInRange with
    | false => exact ⟨_, _, step_of_fetch_fails hf hr, step_of_fetch_fails (s := s.withUnread k b) hf hr, herr _⟩
    | true =>
      cases hd : decode s.fetchWord with
      | op i =>
        rw [step_of_op hf hr hd, step_of_op (s := s.withUnread k b) hf hr hd]
        cases hk : raisedBy i s with
        | some e => exact ⟨_, _, exec_of_raised hk, exec_of_raised ((raisedBy_withUnread ..).trans hk), herr _⟩
        | none => exact ⟨_, _, exec_of_completes hk, exec_of_completes ((raisedBy_withUnread ..).trans hk), hcomp i hk⟩
      | unknown w =>
        rw [step_of_unknown hf hr hd, step_of_unknown (s := s.withUnread k b) hf hr hd]
        cases hp : s.params.unknownOpcodePolicy with
        | halt => exact ⟨_, _, unknownWord_of_halt hp, unknownWord_of_halt (s := s.withUnread k b) hp, herr _⟩
        | skip => exact ⟨_, _, unknownWord_of_skip hp, unknownWord_of_skip (s := s.withUnread k b) hp, hadv⟩

/-! ## Stack entries at or above SP -/

theorem agreeBelowSP_withUnread {s : State} {k : List Word} (hlen : k.length = s.stack.length)
    (h : ∀ j, j < s.sp → k.getD j 0#16 = s.stackAt j) : Claims.AgreeBelowSP s (s.withUnread k s.st) :=
  ⟨rfl, hlen, h⟩

/-- CALL writes the same entry at SP into both stacks (R133). -/
theorem getD_set_agree {k l : List Word} {n : Nat} (w : Word) (hlen : k.length = l.length)
    (h : ∀ j, j < n → k.getD j 0#16 = l.getD j 0#16) (j : Nat) (hj : j < n + 1) :
    (k.set n w).getD j 0#16 = (l.set n w).getD j 0#16 := by
  by_cases hn : j = n
  · subst hn
    simp [List.getD_eq_getElem?_getD, List.getElem?_set, hlen]
  · have hne : n ≠ j := Ne.symm hn
    simpa [List.getD_eq_getElem?_getD, List.getElem?_set, hne] using h j (by omega)

/-- RET reads an entry below SP, CALL writes one entry into both stacks, and every other instruction leaves stack and SP. -/
theorem completed_agreeBelowSP {i : Instr} {s : State} {k : List Word} (hn : raisedBy i s = none)
    (hlen : k.length = s.stack.length) (h : ∀ j, j < s.sp → k.getD j 0#16 = s.stackAt j) :
    Claims.AgreeBelowSP (completed i s) (completed i (s.withUnread k s.st)) := by
  by_cases hi : touchesUnread i
  case neg =>
    obtain ⟨hstack, hsp⟩ := completed_stack_sp_of_not_touchesUnread hi s
    rw [completed_withUnread hi, ← completed_st_of_not_touchesUnread hi s]
    exact agreeBelowSP_withUnread (by rwa [hstack]) (by simpa only [State.stackAt, hstack, hsp] using h)
  obtain rfl | ⟨nnn, rfl⟩ | ⟨x, rfl⟩ := hi
  · have hsp : s.sp ≠ 0 := by simpa [raisedBy] using hn
    have htop : (s.withUnread k s.st).stackAt (s.sp - 1) = s.stackAt (s.sp - 1) := h _ (by omega)
    have hc : completed .ret (s.withUnread k s.st) = (completed .ret s).withUnread k s.st :=
      congrArg (s.withUnread k s.st).pop.setPC htop
    rw [hc]
    exact agreeBelowSP_withUnread hlen fun j hj => h j (Nat.lt_of_lt_of_le hj (Nat.sub_le ..))
  · exact ⟨rfl, by simpa [completed, State.withUnread] using hlen, getD_set_agree _ hlen h⟩
  · exact ⟨rfl, hlen, h⟩

/-- Settles O25: the relation holds before a step, an error and an advance keep it, and so does every instruction. -/
theorem deadStackEntriesAreNotObservable : Obligations.DeadStackEntriesAreNotObservable := by
  intro s s' hs
  obtain ⟨heq, hlen, h⟩ := hs
  have hs' : s' = s.withUnread s'.stack s.st := heq
  have hk : ∀ j, j < s.sp → s'.stack.getD j 0#16 = s.stackAt j := h
  generalize s'.stack = k at hs' hlen hk
  subst hs'
  exact step_withUnread (agreeBelowSP_withUnread hlen hk) (fun _ => agreeBelowSP_withUnread hlen hk)
    (agreeBelowSP_withUnread hlen hk) fun i hn => completed_agreeBelowSP hn hlen hk

/-! ## ST -/

/-- Two states that differ in ST alone; each keeps the ST it began with, `s.st` and `b`, or both hold the same. -/
def AgreeButST (s : State) (b : Byte) (t t' : State) : Prop :=
  t' = { t with st := t'.st } ∧ ((t.st = s.st ∧ t'.st = b) ∨ t'.st = t.st)

theorem agreeButST_withUnread {s t : State} {b : Byte} (h : t.st = s.st) : AgreeButST s b t (t.withUnread t.stack b) :=
  ⟨rfl, .inl ⟨h, rfl⟩⟩

theorem completed_agreeButST (i : Instr) (s : State) (b : Byte) :
    AgreeButST s b (completed i s) (completed i (s.withUnread s.stack b)) := by
  by_cases hi : touchesUnread i
  · obtain rfl | ⟨nnn, rfl⟩ | ⟨x, rfl⟩ := hi
    · exact agreeButST_withUnread rfl
    · exact agreeButST_withUnread rfl
    · exact ⟨rfl, .inr rfl⟩
  · rw [completed_withUnread hi, ← (completed_stack_sp_of_not_touchesUnread hi s).1]
    exact agreeButST_withUnread (completed_st_of_not_touchesUnread hi s)

/-- Settles O26: FX18 writes one byte into both ST, and every other instruction keeps either ST. -/
theorem soundTimerIsNotRead : Obligations.SoundTimerIsNotRead := fun s b =>
  step_withUnread (R := AgreeButST s b) (agreeButST_withUnread rfl) (fun _ => agreeButST_withUnread rfl)
    (agreeButST_withUnread rfl) fun i _ => completed_agreeButST i s b

end Sys2Proof.Machine
end

section
/-! SUPPORT. Memory between an instruction that writes it and the next fetch: a fetch outside memory, a fetch of the bytes
that FX55 stored, and which instructions write at all. -/

namespace Sys2Proof.Machine

/-! ## The fetch -/

/-- Settles O7: a failed bounds check is the second test of a step, after the latch. -/
theorem fetchBeyondMemoryErrs : Obligations.FetchBeyondMemoryErrs := by
  intro s hf hpc
  have hr : s.fetchInRange = false := by
    rw [Bool.eq_false_iff, Ne, State.fetchInRange_iff]; omega
  exact step_of_fetch_fails hf hr

/-- Settles O6: the word written out in the statement is the one `State.fetchWord` names. -/
theorem stepRunsTheDecodedInstruction : Obligations.StepRunsTheDecodedInstruction :=
  fun s _ hf hpc hd => step_of_op hf ((State.fetchInRange_iff s).mpr hpc) hd

/-! ## The stores -/

/-- Settles O20: an error leaves memory, and of the completed instructions only FX33 and FX55 write it. -/
theorem onlyStoresWriteMemory : Obligations.OnlyStoresWriteMemory := by
  intro i s t h hne
  obtain rfl := eq_completed_of_changes State.mem (fun _ _ => rfl) h hne
  exact completed_mem_ne hne

/-- Memory after FX55 holds each stored register at its offset from I (R195). -/
theorem read_completed_ldMiVx {s : State} {x : Nibble} (k : Nibble) (hm : Memory.wf s.mem) (hk : k.toNat ≤ x.toNat) :
    Memory.read (completed (.ldMiVx x) s).mem (s.i.toNat + k.toNat) = s.getV k := by
  have hin : s.i.toNat ≤ s.i.toNat + k.toNat ∧ s.i.toNat + k.toNat < s.i.toNat + (s.regsUpTo x).length := by
    rw [State.length_regsUpTo]; omega
  calc Memory.read (completed (.ldMiVx x) s).mem (s.i.toNat + k.toNat)
      = Memory.read (Memory.writeBytes s.mem s.i.toNat (s.regsUpTo x)) (s.i.toNat + k.toNat) := by simp [completed]
    _ = (s.regsUpTo x).getD k.toNat 0#8 := by rw [Memory.read_writeBytes _ _ _ hm.1, if_pos hin, Nat.add_sub_cancel_left]
    _ = s.getV k := State.getD_regsUpTo s x k hk

/-- After FX55 of at least two registers the word at the stored address is V0 followed by V1 (R55, R65). -/
theorem fetchWord_completed_ldMiVx {s : State} {x : Nibble} (hm : Memory.wf s.mem) (hx : 1 ≤ x.toNat) :
    ((completed (.ldMiVx x) s).setPC s.i).fetchWord = wordOfBytes (s.getV 0x0#4) (s.getV 0x1#4) :=
  congrArg₂ wordOfBytes (read_completed_ldMiVx 0x0#4 hm (Nat.zero_le _)) (read_completed_ldMiVx 0x1#4 hm hx)

/-- Settles O56: FX55 completes and sets no latch, so the step at the stored address runs the word it stored. -/
theorem storedCodeIsFetched : Obligations.StoredCodeIsFetched := by
  intro s x hm hf hx hend
  have hn : raisedBy (.ldMiVx x) s = none := if_neg (Nat.not_lt.mpr hend)
  refine ⟨completed (.ldMiVx x) s, exec_of_completes hn, fun i hd => ?_⟩
  refine step_of_op ?_ ?_ ?_
  · simpa [completed] using hf
  · exact (State.fetchInRange_iff _).mpr ((Nat.add_le_add_left hx _).trans hend)
  · exact (congrArg decode (fetchWord_completed_ldMiVx hm hx)).trans hd

end Sys2Proof.Machine
end

section
/-! SUPPORT. The decoder and the encoder against each other: the fields of a word as numbers, what decoding the word of an
instruction gives, what a decoded instruction says of its word, and which words are refused. -/

namespace Sys2Proof

/-! ## The fields of a word as numbers -/

section Fields
variable (w : Word)

theorem toNat_opClass : (opClass w).toNat = w.toNat / 0x1000 := by
  have hw : w.toNat < 2 ^ 16 := w.isLt
  simp only [opClass, BitVec.extractLsb'_toNat, Nat.shiftRight_eq_div_pow]
  omega

theorem toNat_fieldX : (fieldX w).toNat = w.toNat / 0x100 % 0x10 := by
  simp [fieldX, BitVec.extractLsb'_toNat, Nat.shiftRight_eq_div_pow]

theorem toNat_fieldY : (fieldY w).toNat = w.toNat / 0x10 % 0x10 := by
  simp [fieldY, BitVec.extractLsb'_toNat, Nat.shiftRight_eq_div_pow]

theorem toNat_fieldN : (fieldN w).toNat = w.toNat % 0x10 := by simp [fieldN, BitVec.extractLsb'_toNat]

theorem toNat_fieldNN : (fieldNN w).toNat = w.toNat % 0x100 := by simp [fieldNN, BitVec.extractLsb'_toNat]

theorem toNat_fieldNNN : (fieldNNN w).toNat = w.toNat % 0x1000 := by simp [fieldNNN, BitVec.extractLsb'_toNat]

end Fields

/-- Settles O4: one lemma per field; the worked values are closed facts. -/
theorem fieldsAreExact : Obligations.FieldsAreExact :=
  ⟨fun w => ⟨toNat_opClass w, toNat_fieldX w, toNat_fieldY w, toNat_fieldN w, toNat_fieldNN w, toNat_fieldNNN w⟩,
    by decide⟩

/-! ## Decoding the word of an instruction -/

/-- A packed word is `w` exactly when its parts are the class and NNN of `w`. -/
theorem packNNN_eq_iff {c : Nibble} {nnn : Addr} {w : Word} : packNNN c nnn = w ↔ c = opClass w ∧ nnn = fieldNNN w := by
  constructor
  · rintro rfl
    exact ⟨(opClass_packNNN c nnn).symm, (fieldNNN_packNNN c nnn).symm⟩
  · rintro ⟨rfl, rfl⟩
    exact packNNN_fields w

/-- SYS stands for every word of class 0 but those of CLS and RET (R92). -/
theorem wellFormed_sys_iff {nnn : Addr} :
    (Instr.sys nnn).WellFormed ↔ encode (.sys nnn) ≠ encode .cls ∧ encode (.sys nnn) ≠ encode .ret := by
  have hcls : encode (.sys nnn) = encode .cls ↔ nnn = 0x0E0#12 := packNNN_eq_iff.trans (and_iff_right rfl)
  have hret : encode (.sys nnn) = encode .ret ↔ nnn = 0x0EE#12 := packNNN_eq_iff.trans (and_iff_right rfl)
  rw [Ne, Ne, hcls, hret]
  simp [Instr.WellFormed, Instr.check]

theorem decodeClass0_encode_sys {nnn : Addr} (h : (Instr.sys nnn).WellFormed) :
    decodeClass0 (encode (.sys nnn)) = .op (.sys nnn) := by
  obtain ⟨hcls, hret⟩ := wellFormed_sys_iff.mp h
  calc decodeClass0 (encode (.sys nnn)) = .op (.sys (fieldNNN (encode (.sys nnn)))) := (if_neg hcls).trans (if_neg hret)
    _ = .op (.sys nnn) := by rw [encode, fieldNNN_packNNN]

/-- Settles O1: the class of the encoded word chooses the part of the opcode map, and there the packed fields are read back. -/
theorem decodeOfEncode : Obligations.DecodeOfEncode := by
  intro i hi
  cases i with
  | sys nnn => exact (decode_class0 _ (opClass_packNNN _ _)).trans (decodeClass0_encode_sys hi)
  | cls | ret => decide
  | jp nnn => simp [encode, decode_class1]
  | call nnn => simp [encode, decode_class2]
  | seVxNn x nn => simp [encode, decode_class3]
  | sneVxNn x nn => simp [encode, decode_class4]
  | seVxVy x y => simp [encode, decode_class5]
  | ldVxNn x nn => simp [encode, decode_class6]
  | addVxNn x nn => simp [encode, decode_class7]
  | ldVxVy x y | or x y | and x y | xor x y | addVxVy x y | sub x y | shr x y | subn x y | shl x y =>
    simp [encode, decode_class8, decodeClass8]
  | sneVxVy x y => simp [encode, decode_class9]
  | ldINnn nnn => simp [encode, decode_classA]
  | jpV0 nnn => simp [encode, decode_classB]
  | rnd x nn => simp [encode, decode_classC]
  | drw x y n => simp [encode, decode_classD]
  | skp x | sknp x => simp [encode, decode_classE, decodeClassE]
  | ldVxDt x | ldVxK x | ldDtVx x | ldStVx x | addIVx x | ldFVx x | ldBVx x | ldMiVx x | ldVxMi x =>
    simp [encode, decode_classF, decodeClassF]

/-- Settles O5: nine closed words. -/
theorem specWordsDecode : Obligations.SpecWordsDecode := by
  unfold Obligations.SpecWordsDecode
  decide

/-! ## What the decoder says of a word -/

/-- The groups of words that R95 refuses, by the fields that the opcode map of R91 tests. -/
def Refused (w : Word) : Prop :=
  (opClass w = 0x5#4 ∧ fieldN w ≠ 0x0#4) ∨
  (opClass w = 0x8#4 ∧ fieldN w ∉ [0x0#4, 0x1#4, 0x2#4, 0x3#4, 0x4#4, 0x5#4, 0x6#4, 0x7#4, 0xE#4]) ∨
  (opClass w = 0x9#4 ∧ fieldN w ≠ 0x0#4) ∨
  (opClass w = 0xE#4 ∧ fieldNN w ∉ [0x9E#8, 0xA1#8]) ∨
  (opClass w = 0xF#4 ∧ fieldNN w ∉ [0x07#8, 0x0A#8, 0x15#8, 0x18#8, 0x1E#8, 0x29#8, 0x33#8, 0x55#8, 0x65#8])

/-- What an answer of the decoder says of the word it was given: an instruction is well-formed and has that word, and a
refusal carries the word, which is of R95. -/
def Decoded.Sound (w : Word) : Decoded → Prop
  | .op i => i.WellFormed ∧ encode i = w
  | .unknown u => u = w ∧ Refused w

section Classes
variable {w : Word} {c : Nibble} (hc : opClass w = c)
include hc

theorem packNNN_of_class : packNNN c (fieldNNN w) = w := hc ▸ packNNN_fields w

theorem packXNN_of_class : packXNN c (fieldX w) (fieldNN w) = w := hc ▸ packXNN_fields w

theorem packXYN_of_class : packXYN c (fieldX w) (fieldY w) (fieldN w) = w := hc ▸ packXYN_fields w

theorem packXNN_of_selector {nn : Byte} (h : fieldNN w = nn) : packXNN c (fieldX w) nn = w := h ▸ packXNN_of_class hc

theorem packXYN_of_selector {n : Nibble} (h : fieldN w = n) : packXYN c (fieldX w) (fieldY w) n = w :=
  h ▸ packXYN_of_class hc

end Classes

theorem decodeClass0_sound {w : Word} (hc : opClass w = 0x0#4) : (decodeClass0 w).Sound w := by
  have hw : encode (.sys (fieldNNN w)) = w := packNNN_of_class hc
  unfold decodeClass0
  split_ifs with hcls hret
  · exact ⟨rfl, hcls.symm⟩
  · exact ⟨rfl, hret.symm⟩
  · exact ⟨wellFormed_sys_iff.mpr ⟨hw.trans_ne hcls, hw.trans_ne hret⟩, hw⟩

theorem decodeClass8_sound {w : Word} (hc : opClass w = 0x8#4) : (decodeClass8 w).Sound w := by
  unfold decodeClass8
  iterate 9 refine iteInduction (motive := Decoded.Sound w) (fun h => ⟨rfl, packXYN_of_selector hc h⟩) fun _ => ?_
  exact ⟨rfl, .inr (.inl ⟨hc, by simp [*]⟩)⟩

theorem decodeClassE_sound {w : Word} (hc : opClass w = 0xE#4) : (decodeClassE w).Sound w := by
  unfold decodeClassE
  iterate 2 refine iteInduction (motive := Decoded.Sound w) (fun h => ⟨rfl, packXNN_of_selector hc h⟩) fun _ => ?_
  exact ⟨rfl, .inr (.inr (.inr (.inl ⟨hc, by simp [*]⟩)))⟩

theorem decodeClassF_sound {w : Word} (hc : opClass w = 0xF#4) : (decodeClassF w).Sound w := by
  unfold decodeClassF
  iterate 9 refine iteInduction (motive := Decoded.Sound w) (fun h => ⟨rfl, packXNN_of_selector hc h⟩) fun _ => ?_
  exact ⟨rfl, .inr (.inr (.inr (.inr ⟨hc, by simp [*]⟩)))⟩

/-- Every answer of the decoder is sound: one case per class of R91. -/
theorem decode_sound (w : Word) : (decode w).Sound w := by
  obtain h | h | h | h | h | h | h | h | h | h | h | h | h | h | h | h := nibble_cases (opClass w)
  · rw [decode_class0 w h]; exact decodeClass0_sound h
  · rw [decode_class1 w h]; exact ⟨rfl, packNNN_of_class h⟩
  · rw [decode_class2 w h]; exact ⟨rfl, packNNN_of_class h⟩
  · rw [decode_class3 w h]; exact ⟨rfl, packXNN_of_class h⟩
  · rw [decode_class4 w h]; exact ⟨rfl, packXNN_of_class h⟩
  · rw [decode_class5 w h]
    split_ifs with hn
    · exact ⟨rfl, packXYN_of_selector h hn⟩
    · exact ⟨rfl, .inl ⟨h, hn⟩⟩
  · rw [decode_class6 w h]; exact ⟨rfl, packXNN_of_class h⟩
  · rw [decode_class7 w h]; exact ⟨rfl, packXNN_of_class h⟩
  · rw [decode_class8 w h]; exact decodeClass8_sound h
  · rw [decode_class9 w h]
    split_ifs with hn
    · exact ⟨rfl, packXYN_of_selector h hn⟩
    · exact ⟨rfl, .inr (.inr (.inl ⟨h, hn⟩))⟩
  · rw [decode_classA w h]; exact ⟨rfl, packNNN_of_class h⟩
  · rw [decode_classB w h]; exact ⟨rfl, packNNN_of_class h⟩
  · rw [decode_classC w h]; exact ⟨rfl, packXNN_of_class h⟩
  · rw [decode_classD w h]; exact ⟨rfl, packXYN_of_class h⟩
  · rw [decode_classE w h]; exact decodeClassE_sound h
  · rw [decode_classF w h]; exact decodeClassF_sound h

/-- Settles O2: the answer is sound. -/
theorem encodeOfDecode : Obligations.EncodeOfDecode := by
  intro w i hd
  have h : (decode w).Sound w := decode_sound w
  rwa [hd] at h

/-! ## The refused words -/

/-- No instruction has a refused word: its class is not one of the five, or its selector is in the class's list. -/
theorem not_refused_encode (i : Instr) : ¬Refused (encode i) := by
  cases i with
  | cls | ret => simp only [Refused]; decide
  | _ => simp [encode, Refused]

theorem decode_eq_unknown_iff {w u : Word} : decode w = .unknown u ↔ u = w ∧ Refused w := by
  have h : (decode w).Sound w := decode_sound w
  cases hd : decode w with
  | op i =>
    rw [hd] at h
    obtain ⟨-, rfl⟩ := h
    exact iff_of_false Decoded.noConfusion fun hr => not_refused_encode i hr.2
  | unknown v =>
    rw [hd] at h
    obtain ⟨rfl, hr⟩ := h
    exact ⟨fun e => ⟨(Decoded.unknown.inj e).symm, hr⟩, fun e => congrArg _ e.1.symm⟩

/-- The selectors of class 8 that R95 lists are those that R91 does not. -/
theorem selector8_iff (n : Nibble) : n.toNat ∈ [0x8, 0x9, 0xA, 0xB, 0xC, 0xD, 0xF] ↔
    n ∉ [0x0#4, 0x1#4, 0x2#4, 0x3#4, 0x4#4, 0x5#4, 0x6#4, 0x7#4, 0xE#4] := by
  revert n; decide

/-- Settles O3: the groups of R95 are `Refused` with the fields as numbers. -/
theorem unknownWordsExactly : Obligations.UnknownWordsExactly := by
  intro w
  refine ⟨fun u hd => (decode_eq_unknown_iff.mp hd).1, ?_⟩
  simp only [decode_eq_unknown_iff, exists_eq_left, ← toNat_opClass, ← toNat_fieldN, ← toNat_fieldNN, selector8_iff]
  simp [Refused, ← BitVec.toNat_inj]

end Sys2Proof
end

section
/-! SUPPORT. The display instructions CLS and DRW: when DRW raises, which cells it toggles and how often under each edge
policy, and what it leaves behind as a state (R110 to R114). -/

namespace Sys2Proof.Machine

/-! ## Where the pixels of a sprite land -/

theorem spriteCell_wrap {p : Params} (he : p.drawEdge = .wrap) {x0 y0 r c : Nat} {q : Pixel} :
    spriteCell p x0 y0 r c = some q ↔ q.x = (x0 + c) % p.displayW ∧ q.y = (y0 + r) % p.displayH := by
  cases q
  simp [spriteCell, he, eq_comm]

theorem spriteCell_clip {p : Params} (he : p.drawEdge = .clip) {x0 y0 r c : Nat} {q : Pixel} :
    spriteCell p x0 y0 r c = some q ↔ q.x = x0 + c ∧ q.x < p.displayW ∧ q.y = y0 + r ∧ q.y < p.displayH := by
  cases q
  simp only [spriteCell, he, Option.ite_none_right_eq_some, Option.some.injEq, Pixel.mk.injEq]
  omega

/-- A byte other than 0x00 has a 1 bit in one of the eight columns (R112). -/
theorem exists_spriteBit {b : Byte} (hb : b ≠ 0#8) : ∃ c < 8, spriteBit b c = true := by
  by_contra hno
  refine hb (BitVec.eq_of_getLsbD_eq fun k hk => ?_)
  have hc : ¬spriteBit b (7 - k) = true := fun h => hno ⟨7 - k, by omega, h⟩
  have hk7 : 7 - (7 - k) = k := by omega
  simpa [spriteBit, hk7] using hc

section Drw
variable {s : State} {x y n : Nibble}

/-! ## The cells of one DRW -/

/-- DRW draws one cell for each 1 bit of its sprite that lands on the grid (R111 to R113). -/
theorem mem_drawnCells {q : Pixel} : q ∈ s.drawnCells x y n ↔ ∃ r < n.toNat, ∃ c < 8,
    spriteBit (Memory.read s.mem (s.i.toNat + r)) c = true ∧
      spriteCell s.params ((s.getV x).toNat % s.params.displayW) ((s.getV y).toNat % s.params.displayH) r c = some q := by
  simp only [State.drawnCells, State.loadAtI, mem_spriteCells, Memory.length_readBytes, Nat.zero_add]
  refine exists_congr fun r => and_congr_right fun hr => ?_
  rw [Memory.getD_readBytes _ _ _ _ hr]

theorem mem_drawnCells_wrap (he : s.params.drawEdge = .wrap) {q : Pixel} :
    q ∈ s.drawnCells x y n ↔ Claims.CoversWrap s x y n q := by
  simp only [mem_drawnCells, spriteCell_wrap he]
  exact ⟨fun ⟨r, hr, c, h⟩ => ⟨r, c, hr, h⟩, fun ⟨r, c, hr, h⟩ => ⟨r, hr, c, h⟩⟩

theorem mem_drawnCells_clip (he : s.params.drawEdge = .clip) {q : Pixel} :
    q ∈ s.drawnCells x y n ↔ Claims.CoversClip s x y n q := by
  simp only [mem_drawnCells, spriteCell_clip he]
  exact ⟨fun ⟨r, hr, c, h⟩ => ⟨r, c, hr, h⟩, fun ⟨r, c, hr, h⟩ => ⟨r, hr, c, h⟩⟩

/-- Under `wrap` DRW draws a cell once for each 1 bit that lands on it, on a display of any size. -/
theorem count_drawnCells_wrap (he : s.params.drawEdge = .wrap) (q : Pixel) :
    (s.drawnCells x y n).count q = Claims.touches s x y n q := by
  simp only [State.drawnCells, State.loadAtI, count_spriteCells, Memory.length_readBytes, Nat.zero_add,
    spriteCell_wrap he, Claims.touches]
  refine congrArg List.sum (List.map_congr_left fun r hr => ?_)
  rw [Memory.getD_readBytes _ _ _ _ (List.mem_range.mp hr)]
  rfl

theorem drawnCells_zero : s.drawnCells x y 0#4 = [] := rfl

/-- DRW draws no cell twice under `clip`, nor under `wrap` on a display that holds the sprite (R114). -/
theorem nodup_drawnCells
    (h : s.params.drawEdge = .clip ∨ (8 ≤ s.params.displayW ∧ n.toNat ≤ s.params.displayH)) :
    (s.drawnCells x y n).Nodup :=
  nodup_spriteCells (by simpa [State.loadAtI] using h)

/-! ## When DRW raises -/

theorem errs_drw_of_beyond (h : 0 < n.toNat ∧ 0x1000 < s.i.toNat + n.toNat) :
    Claims.Errs (.drw x y n) s .memoryOutOfBounds (encode (.drw x y n)) :=
  exec_of_raised (if_pos h)

theorem exec_drw_of_fits (h : n.toNat = 0 ∨ s.i.toNat + n.toNat ≤ 0x1000) :
    exec (.drw x y n) s = .next (completed (.drw x y n) s) :=
  exec_of_completes (if_neg (by omega))

/-! ## The state after DRW -/

theorem lit_completed_drw (hs : Framebuffer.sorted s.fb) (q : Pixel) :
    Framebuffer.lit (completed (.drw x y n) s).fb q =
      (Framebuffer.lit s.fb q ^^ decide ((s.drawnCells x y n).count q % 2 = 1)) :=
  lit_drawCells false _ q hs

theorem getV_completed_drw (z : Nibble) : (completed (.drw x y n) s).getV z =
    if z = 0xF#4 then (if (drawCells s.fb false (s.drawnCells x y n)).2 then 1#8 else 0#8) else s.getV z :=
  State.getV_writeFlag _ _ _

/-- DRW changes the framebuffer, VF and PC alone (R111, R114). -/
theorem completed_drw_frame : completed (.drw x y n) s =
      { s with fb := (completed (.drw x y n) s).fb, v := (completed (.drw x y n) s).v, pc := s.pc + 2#16 } ∧
    ∀ z, z ≠ 0xF#4 → (completed (.drw x y n) s).getV z = s.getV z :=
  ⟨rfl, fun z hz => by rw [getV_completed_drw, if_neg hz]⟩

/-- VF is 1 exactly when some drawn cell was lit before or is drawn twice (R111, R114). -/
theorem completed_drw_flag (hs : Framebuffer.sorted s.fb) {hit : Prop} (hhit : hit ↔ ∃ q,
      1 ≤ (s.drawnCells x y n).count q ∧ (Framebuffer.lit s.fb q = true ∨ 2 ≤ (s.drawnCells x y n).count q)) :
    (hit → (completed (.drw x y n) s).getV 0xF#4 = 1#8) ∧ (¬hit → (completed (.drw x y n) s).getV 0xF#4 = 0#8) := by
  have hc := collision_drawCells_iff false (s.drawnCells x y n) hs
  simp only [Bool.false_eq_true, false_or, ← hhit] at hc
  rw [getV_completed_drw, if_pos rfl]
  exact ⟨fun h => if_pos (hc.mpr h), fun h => if_neg (mt hc.mp h)⟩

/-- Where DRW draws no cell twice, a drawn cell changes, every other cell is as before, and VF says whether a drawn cell
was lit: the answer under either edge policy, for any description `Covers` of the drawn cells. -/
theorem exec_drw_of_nodup {Covers : Pixel → Prop} (hs : Framebuffer.sorted s.fb)
    (hfit : n.toNat = 0 ∨ s.i.toNat + n.toNat ≤ 0x1000) (hnd : (s.drawnCells x y n).Nodup)
    (hcov : ∀ q, q ∈ s.drawnCells x y n ↔ Covers q) :
    ∃ t, exec (.drw x y n) s = .next t ∧
      (∀ q, Framebuffer.lit t.fb q = true ↔ ¬(Framebuffer.lit s.fb q = true ↔ Covers q)) ∧
      ((∃ q, Covers q ∧ Framebuffer.lit s.fb q = true) → t.getV 0xF#4 = 1#8) ∧
      ((¬∃ q, Covers q ∧ Framebuffer.lit s.fb q = true) → t.getV 0xF#4 = 0#8) ∧
      t = { s with fb := t.fb, v := t.v, pc := s.pc + 2#16 } ∧ ∀ z, z ≠ 0xF#4 → t.getV z = s.getV z := by
  have hcount : ∀ q, (s.drawnCells x y n).count q = if q ∈ s.drawnCells x y n then 1 else 0 := fun q => hnd.count
  obtain ⟨hset, hclear⟩ := completed_drw_flag (x := x) (y := y) (n := n) hs
    (hit := ∃ q, Covers q ∧ Framebuffer.lit s.fb q = true)
    (exists_congr fun q => by by_cases hq : q ∈ s.drawnCells x y n <;> simp [hcount, ← hcov, hq])
  refine ⟨_, exec_drw_of_fits hfit, fun q => ?_, hset, hclear, completed_drw_frame⟩
  rw [lit_completed_drw hs, hcount, ← hcov]
  by_cases hq : q ∈ s.drawnCells x y n <;> simp [hq]

/-! ## The same DRW twice -/

/-- DRW leaves what its own cells are computed from, unless VX or VY is the flag register. -/
theorem drawnCells_completed_drw (hx : x ≠ 0xF#4) (hy : y ≠ 0xF#4) :
    (completed (.drw x y n) s).drawnCells x y n = s.drawnCells x y n := by
  unfold State.drawnCells
  rw [getV_completed_drw, getV_completed_drw, if_neg hx, if_neg hy]
  rfl

theorem sorted_completed_drw (hs : Framebuffer.sorted s.fb) : Framebuffer.sorted (completed (.drw x y n) s).fb :=
  sorted_drawCells false _ hs

/-- Each cell is toggled as often by the second DRW as by the first (R114). -/
theorem fb_completed_drw_twice (hs : Framebuffer.sorted s.fb) (hx : x ≠ 0xF#4) (hy : y ≠ 0xF#4) :
    (completed (.drw x y n) (completed (.drw x y n) s)).fb = s.fb := by
  have ht : Framebuffer.sorted (completed (.drw x y n) s).fb := sorted_completed_drw hs
  refine Framebuffer.ext_lit (sorted_completed_drw ht) hs fun q => ?_
  rw [lit_completed_drw ht, drawnCells_completed_drw hx hy, lit_completed_drw hs, Bool.xor_assoc, Bool.xor_self,
    Bool.xor_false]

/-- Under `wrap` a 1 bit of the sprite draws some cell, whatever the size of the display. -/
theorem exists_mem_drawnCells_wrap (he : s.params.drawEdge = .wrap)
    (h : ∃ r, r < n.toNat ∧ Memory.read s.mem (s.i.toNat + r) ≠ 0#8) : ∃ q, q ∈ s.drawnCells x y n := by
  obtain ⟨r, hr, hb⟩ := h
  obtain ⟨c, hc, hbit⟩ := exists_spriteBit hb
  exact ⟨⟨_, _⟩, mem_drawnCells.mpr ⟨r, hr, c, hc, hbit, (spriteCell_wrap he).mpr ⟨rfl, rfl⟩⟩⟩

/-- On a blank framebuffer DRW without a cell drawn twice finds no lit cell. -/
theorem flag_completed_drw_of_blank (hfb : s.fb = []) (hnd : (s.drawnCells x y n).Nodup) :
    (completed (.drw x y n) s).getV 0xF#4 = 0#8 := by
  rw [getV_completed_drw, collision_drawCells false (by simp [hfb]) hnd]
  simp [hfb, Framebuffer.lit]

/-- The second DRW finds each cell lit that the first one, without a cell drawn twice, drew on a blank framebuffer. -/
theorem flag_completed_drw_twice_of_blank (hx : x ≠ 0xF#4) (hy : y ≠ 0xF#4) (hfb : s.fb = [])
    (hnd : (s.drawnCells x y n).Nodup) {q : Pixel} (hq : q ∈ s.drawnCells x y n) :
    (completed (.drw x y n) (completed (.drw x y n) s)).getV 0xF#4 = 1#8 := by
  have hs : Framebuffer.sorted s.fb := by simp [hfb]
  have hcount : (s.drawnCells x y n).count q = 1 := List.count_eq_one_of_mem hnd hq
  have hlit : Framebuffer.lit (completed (.drw x y n) s).fb q = true := by
    rw [lit_completed_drw hs, hcount, hfb]
    rfl
  refine (completed_drw_flag (sorted_completed_drw hs) Iff.rfl).1 ⟨q, ?_, .inl hlit⟩
  rw [drawnCells_completed_drw hx hy, hcount]

end Drw

/-! ## The statements -/

/-- Settles O27: the list of lit cells is empty. -/
theorem clearTurnsEveryCellOff : Obligations.ClearTurnsEveryCellOff :=
  fun _ => ⟨_, rfl, fun _ => decide_eq_false List.not_mem_nil, rfl⟩

/-- Settles O28: a display that holds the sprite shows no cell of it twice. -/
theorem drawWrapTogglesTheSprite : Obligations.DrawWrapTogglesTheSprite := by
  rintro s x y n ⟨-, -, -, -, hs, -⟩ he hW hH hfit
  exact exec_drw_of_nodup hs hfit (nodup_drawnCells (.inr ⟨hW, hH⟩)) fun _ => mem_drawnCells_wrap he

/-- Settles O29: the touches of a cell are its count among the drawn cells. -/
theorem drawWrapOnAnyDisplay : Obligations.DrawWrapOnAnyDisplay := by
  rintro s x y n ⟨-, -, -, -, hs, -⟩ he
  refine ⟨fun h => errs_drw_of_beyond (by omega), fun hfit => ?_⟩
  simp only [← count_drawnCells_wrap he]
  obtain ⟨hset, hclear⟩ := completed_drw_flag (x := x) (y := y) (n := n) hs Iff.rfl
  exact ⟨_, exec_drw_of_fits (by omega), lit_completed_drw hs, hset, hclear, completed_drw_frame⟩

/-- Settles O30: under `clip` no cell is drawn twice on any display. -/
theorem drawClipTogglesTheVisiblePart : Obligations.DrawClipTogglesTheVisiblePart := by
  rintro s x y n ⟨-, -, -, -, hs, -⟩ he
  exact ⟨errs_drw_of_beyond, fun hfit =>
    exec_drw_of_nodup hs hfit (nodup_drawnCells (.inl he)) fun _ => mem_drawnCells_clip he⟩

/-- Settles O31: a sprite of no rows draws no cell, in every state. -/
theorem drawHeightZeroAndBounds : Obligations.DrawHeightZeroAndBounds := by
  intro s x y n
  have hflag : (completed (.drw x y 0#4) s).getV 0xF#4 = 0#8 := by
    rw [getV_completed_drw, drawnCells_zero]
    rfl
  exact ⟨⟨_, exec_drw_of_fits (.inl rfl), hflag, completed_drw_frame⟩, errs_drw_of_beyond⟩

/-- Settles O32: the framebuffer by counting each cell twice, the flags by a blank framebuffer before the first DRW. -/
theorem drawTwiceRestores : Obligations.DrawTwiceRestores := by
  rintro s x y n ⟨-, -, -, -, hs, -⟩ hx hy hfit
  refine ⟨_, _, exec_drw_of_fits hfit, exec_drw_of_fits hfit, fb_completed_drw_twice hs hx hy,
    fun hblank he hW hH => ?_⟩
  have hnd : (s.drawnCells x y n).Nodup := nodup_drawnCells (.inr ⟨hW, hH⟩)
  refine ⟨flag_completed_drw_of_blank hblank hnd, fun hbit => ?_⟩
  obtain ⟨q, hq⟩ := exists_mem_drawnCells_wrap (x := x) (y := y) he hbit
  exact flag_completed_drw_twice_of_blank hx hy hblank hnd hq

end Sys2Proof.Machine
end

section
/-! SUPPORT. The control-flow instructions SYS, RET, JP, CALL and JP V0: an address field as a 16-bit word, what CALL
leaves in the stack for the RET that ends the subroutine, and a jump to itself (R130 to R135, R272). -/

namespace Sys2Proof.Machine

/-! ## Address fields as words -/

theorem zext16_eq_ofNat (nnn : Addr) : zext16 nnn = BitVec.ofNat 16 nnn.toNat := (BitVec.ofNat_toNat 16 nnn).symm

/-- The word of an instruction with an NNN field, as a sum (R86). -/
theorem packNNN_eq_add (c : Nibble) (nnn : Addr) :
    packNNN c nnn = BitVec.ofNat 16 (c.toNat * 0x1000) + BitVec.ofNat 16 nnn.toNat := by
  apply BitVec.eq_of_toNat_eq
  have hlt : c.toNat * 0x1000 + nnn.toNat < 2 ^ 16 := toNat_packNNN c nnn ▸ (packNNN c nnn).isLt
  rw [← BitVec.ofNat_add, BitVec.toNat_ofNat, Nat.mod_eq_of_lt hlt, toNat_packNNN]

theorem encode_sys_eq_ofNat (nnn : Addr) : encode (.sys nnn) = BitVec.ofNat 16 nnn.toNat :=
  (packNNN_eq_add 0x0#4 nnn).trans (BitVec.zero_add _)

theorem encode_call_eq_add (nnn : Addr) : encode (.call nnn) = 0x2000#16 + BitVec.ofNat 16 nnn.toNat :=
  packNNN_eq_add 0x2#4 nnn

/-! ## The call stack -/

theorem State.stackAt_push_of_ne (s : State) (w : Word) {k : Nat} (h : k ≠ s.sp) : (s.push w).stackAt k = s.stackAt k := by
  simp [State.stackAt, List.getD_eq_getElem?_getD, List.getElem?_set_ne h.symm]

/-- CALL with room completes: only the entry at SP, SP and PC change (R133). -/
theorem exec_call_of_room {s : State} (nnn : Addr) (h : s.sp ≠ s.params.stackDepth) :
    exec (.call nnn) s = .next ((s.push (s.pc + 2#16)).setPC (zext16 nnn)) :=
  exec_of_completes (i := .call nnn) (if_neg h)

theorem exec_ret_of_nonempty {s : State} (h : s.sp ≠ 0) : exec .ret s = .next (s.pop.setPC (s.stackAt (s.sp - 1))) :=
  exec_of_completes (i := .ret) (if_neg h)

/-! ## Jumps -/

theorem exec_jp (s : State) (nnn : Addr) : exec (.jp nnn) s = .next (s.setPC (zext16 nnn)) :=
  exec_of_completes (i := .jp nnn) rfl

section JumpToPC
variable {w : Word} (hw : w.toNat < 0x1000)
include hw

/-- A word below 0x1000 is the address in its NNN field (R86, R87). -/
theorem zext16_fieldNNN : zext16 (fieldNNN w) = w := by
  apply BitVec.eq_of_toNat_eq
  rw [toNat_zext16, toNat_fieldNNN, Nat.mod_eq_of_lt hw]

/-- `1NNN` with `NNN = w` is the jump to `w` (R132, R272). -/
theorem decode_jump_to : decode (0x1000#16 + w) = .op (.jp (fieldNNN w)) := by
  have hword : encode (.jp (fieldNNN w)) = 0x1000#16 + w := by
    rw [encode, packNNN_eq_add, ← zext16_eq_ofNat, zext16_fieldNNN hw]
    rfl
  exact hword ▸ decodeOfEncode (.jp (fieldNNN w)) rfl

end JumpToPC

/-! ## The statements -/

/-- Settles O33: each policy is one row of the table of errors, and the recorded word is that of class 0. -/
theorem sysFollowsItsPolicy : Obligations.SysFollowsItsPolicy := by
  intro s nnn
  rw [← encode_sys_eq_ofNat]
  refine ⟨fun hp => exec_of_raised (i := .sys nnn) (if_pos hp), fun hp => exec_of_completes (i := .sys nnn) (if_neg ?_)⟩
  simp [hp]

/-- Settles O34: RET raises by SP alone, and otherwise completes. -/
theorem returnPopsIntoPc : Obligations.ReturnPopsIntoPc :=
  fun _ => ⟨fun h => exec_of_raised (i := .ret) (if_pos h), exec_ret_of_nonempty⟩

/-- Settles O35: JP completes in every state. -/
theorem jumpSetsPc : Obligations.JumpSetsPc := by
  intro s nnn
  rw [exec_jp, zext16_eq_ofNat]
  rfl

/-- Settles O36: CALL raises by SP alone, and with room pushes one entry. -/
theorem callPushesTheReturnAddress : Obligations.CallPushesTheReturnAddress := by
  intro s nnn
  rw [← encode_call_eq_add]
  refine ⟨fun h => exec_of_raised (i := .call nnn) (if_pos h), fun hsp hroom => ?_⟩
  exact ⟨_, exec_call_of_room nnn hsp, rfl, zext16_eq_ofNat nnn, List.length_set .., State.stackAt_push s _ hroom,
    fun _ hk => State.stackAt_push_of_ne s _ hk, rfl⟩

/-- Settles O37: the target is the integer sum, with the offset register by its number. -/
theorem jumpWithOffsetIsNotMasked : Obligations.JumpWithOffsetIsNotMasked := by
  intro s nnn
  have hpc : (completed (.jpV0 nnn) s).pc.toNat = nnn.toNat +
      (s.getV (if s.params.jumpOffsetUsesVX = true then BitVec.ofNat 4 (nnn.toNat / 0x100) else 0x0#4)).toNat := by
    rw [← State.jumpOffset_eq]
    exact toNat_zext16_add nnn _
  refine ⟨_, exec_of_completes rfl, rfl, fun hp => ?_, fun hp => ?_⟩
  · simpa [hp] using hpc
  · simpa [hp] using hpc

/-- Settles O38: RET reads the entry that CALL pushed, through the stack and SP that the two states share. -/
theorem subroutineRoundTrip : Obligations.SubroutineRoundTrip := by
  intro s nnn hsp hlen
  refine ⟨_, exec_call_of_room nnn hsp.ne, fun r hrsp hrstack => ?_⟩
  have hr : r.sp = s.sp + 1 := hrsp
  have htop : r.stackAt (r.sp - 1) = s.pc + 2#16 := by
    calc r.stackAt (r.sp - 1) = (s.push (s.pc + 2#16)).stackAt s.sp := by
          rw [hr, Nat.add_sub_cancel, State.stackAt, hrstack]; rfl
      _ = s.pc + 2#16 := State.stackAt_push s _ (hlen ▸ hsp)
  exact ⟨_, exec_ret_of_nonempty (by omega), htop, Nat.sub_eq_of_eq_add hr⟩

/-- Settles O60: the fetched word decodes to the jump to PC, and that jump leaves PC where it is. -/
theorem idleEndStays : Obligations.IdleEndStays := by
  rintro s ⟨hf, hpc, hword⟩
  have hlt : s.pc.toNat < 0x1000 := by omega
  calc step s = exec (.jp (fieldNNN s.pc)) s :=
        step_of_op hf ((State.fetchInRange_iff s).mpr hpc) ((congrArg decode hword).trans (decode_jump_to hlt))
    _ = .next (s.setPC s.pc) := by rw [exec_jp, zext16_fieldNNN hlt]
    _ = .next s := rfl

end Sys2Proof.Machine
end

section
/-! SUPPORT. The register and arithmetic/logic instructions 6XNN, 7XNN, 8XYn and CXNN: each is one of three result forms, so
the frame is that of the form and only the result and the flag are the instruction's own (R150 to R162). -/

namespace Sys2Proof.Machine

/-! ## The three result forms -/

section Results
variable (s : State) (x : Nibble) (r : Byte)

/-- A result with no flag, with the frame that the statements name. -/
theorem State.result_onlyRegister :
    ∃ t, s.result x r = .next t ∧ t.getV x = r ∧ Claims.OnlyRegister s t x := by
  obtain ⟨t, ht, hx, hother, hframe⟩ := s.result_spec x r
  exact ⟨t, ht, hx, hframe, hother⟩

/-- A result with a flag, with the frame that the statements name. -/
theorem State.resultFlag_onlyRegisterAndFlag (c : Bool) :
    ∃ t, s.resultFlag x r c = .next t ∧ (x ≠ 0xF#4 → t.getV x = r) ∧
      t.getV 0xF#4 = (if c then 1#8 else 0#8) ∧ Claims.OnlyRegisterAndFlag s t x := by
  obtain ⟨t, ht, hx, hflag, hother, hframe⟩ := s.resultFlag_spec x r c
  exact ⟨t, ht, hx, hflag, hframe, hother⟩

theorem State.resultLogic_eq_result (hp : s.params.logicResetsVF = false) : s.resultLogic x r = s.result x r := by
  simp [State.resultLogic, State.result, State.logicFlag, hp]

theorem State.resultLogic_eq_resultFlag (hp : s.params.logicResetsVF = true) :
    s.resultLogic x r = s.resultFlag x r false := by
  simp [State.resultLogic, State.resultFlag, State.logicFlag, hp]

/-- A logic result has no flag, or under LOGIC_RESETS_VF the flag 0 (R153). -/
theorem State.resultLogic_spec : ∃ t, s.resultLogic x r = .next t ∧
    (s.params.logicResetsVF = false → t.getV x = r ∧ Claims.OnlyRegister s t x) ∧
    (s.params.logicResetsVF = true →
      t.getV 0xF#4 = 0#8 ∧ (x ≠ 0xF#4 → t.getV x = r) ∧ Claims.OnlyRegisterAndFlag s t x) := by
  cases hp : s.params.logicResetsVF with
  | false =>
    obtain ⟨t, ht, hx, hframe⟩ := s.result_onlyRegister x r
    exact ⟨t, (s.resultLogic_eq_result x r hp).trans ht, fun _ => ⟨hx, hframe⟩, nofun⟩
  | true =>
    obtain ⟨t, ht, hx, hflag, hframe⟩ := s.resultFlag_onlyRegisterAndFlag x r false
    exact ⟨t, (s.resultLogic_eq_resultFlag x r hp).trans ht, nofun, fun _ => ⟨hflag, hx, hframe⟩⟩

end Results

/-! ## Results and flags as numbers -/

theorem carryFlag_iff (a b : Byte) : carryFlag a b = true ↔ a.toNat + b.toNat > 0xFF := decide_eq_true_iff

theorem noBorrowFlag_iff (a b : Byte) : noBorrowFlag a b = true ↔ a.toNat ≥ b.toNat := decide_eq_true_iff

theorem toNat_lsbFlag (a : Byte) : (lsbFlag a).toNat = a.toNat % 2 := by
  rw [lsbFlag, BitVec.getLsbD, Nat.toNat_testBit, pow_zero, Nat.div_one]

theorem toNat_msbFlag (a : Byte) : (msbFlag a).toNat = a.toNat / 128 := by
  have hlt : a.toNat / 128 < 2 := Nat.div_lt_of_lt_mul a.isLt
  rw [msbFlag, BitVec.getLsbD, Nat.toNat_testBit, Nat.mod_eq_of_lt hlt]

/-- The byte that stands for a flag in VF is its number (R24). -/
theorem toNat_flagByte (c : Bool) : (if c then 1#8 else 0#8).toNat = c.toNat := by
  cases c <;> rfl

/-- A truncated difference is the one byte that gives the minuend back modulo 256 (R157, R162). -/
theorem subTrunc_add_mod (a b : Byte) : ((subTrunc a b).toNat + b.toNat) % 256 = a.toNat := by
  have ha := a.isLt
  have hb := b.isLt
  rw [toNat_subTrunc]
  omega

theorem toNat_shiftRight_one (a : Byte) : (a >>> 1).toNat = a.toNat / 2 := by
  rw [BitVec.toNat_ushiftRight, Nat.shiftRight_eq_div_pow, pow_one]

theorem toNat_shiftLeft_one (a : Byte) : (a <<< 1).toNat = a.toNat * 2 % 256 := by
  rw [BitVec.toNat_shiftLeft, Nat.shiftLeft_eq, pow_one]

/-! ## Subtraction and shift, for both instructions of each -/

/-- `a - b` into VX, then NOT borrow: SUB and SUBN differ only in which register is the minuend (R157, R159). -/
theorem State.resultFlag_subTrunc (s : State) (x : Nibble) (a b : Byte) :
    ∃ t, s.resultFlag x (subTrunc a b) (noBorrowFlag a b) = .next t ∧
      (x ≠ 0xF#4 → ((t.getV x).toNat + b.toNat) % 256 = a.toNat) ∧
      t.getV 0xF#4 = (if a.toNat ≥ b.toNat then 1#8 else 0#8) ∧ Claims.OnlyRegisterAndFlag s t x := by
  obtain ⟨t, ht, hx, hflag, hframe⟩ := s.resultFlag_onlyRegisterAndFlag x (subTrunc a b) (noBorrowFlag a b)
  exact ⟨t, ht, fun h => by rw [hx h, subTrunc_add_mod], hflag.trans (if_congr (noBorrowFlag_iff a b) rfl rfl), hframe⟩

/-- A result and a flag, each given as a number (R158, R160). -/
theorem State.resultFlag_toNat (s : State) (x : Nibble) {r : Byte} {c : Bool} {m f : Nat}
    (hr : r.toNat = m) (hc : c.toNat = f) :
    ∃ t, s.resultFlag x r c = .next t ∧ (x ≠ 0xF#4 → (t.getV x).toNat = m) ∧ (t.getV 0xF#4).toNat = f ∧
      Claims.OnlyRegisterAndFlag s t x := by
  obtain ⟨t, ht, hx, hflag, hframe⟩ := s.resultFlag_onlyRegisterAndFlag x r c
  exact ⟨t, ht, fun h => by rw [hx h, hr], by rw [hflag, toNat_flagByte, hc], hframe⟩

/-! ## The statements -/

/-- Settles O39: both loads are a result with no flag. -/
theorem registerLoads : Obligations.RegisterLoads :=
  fun s x y nn => ⟨s.result_onlyRegister x nn, s.result_onlyRegister x (s.getV y)⟩

/-- Settles O40: the truncated sum is a result with no flag, whatever the register. -/
theorem addImmediateWrapsWithoutFlag : Obligations.AddImmediateWrapsWithoutFlag := by
  intro s x nn
  obtain ⟨t, ht, hx, hframe⟩ := s.result_onlyRegister x (addTrunc (s.getV x) nn)
  exact ⟨t, ht, by rw [hx, toNat_addTrunc], hframe⟩

/-- Settles O41: the three operations differ in the result alone. -/
theorem logicOperations : Obligations.LogicOperations := by
  intro s x y
  simp only [List.forall_mem_cons]
  exact ⟨s.resultLogic_spec x _, s.resultLogic_spec x _, s.resultLogic_spec x _, nofun⟩

/-- Settles O42: the flag write is last, so the carry wins in VF. -/
theorem addRegistersSetsCarry : Obligations.AddRegistersSetsCarry := by
  intro s x y
  obtain ⟨t, ht, hx, hflag, hframe⟩ :=
    s.resultFlag_onlyRegisterAndFlag x (addTrunc (s.getV x) (s.getV y)) (carryFlag (s.getV x) (s.getV y))
  exact ⟨t, ht, fun h => by rw [hx h, toNat_addTrunc], hflag.trans (if_congr (carryFlag_iff _ _) rfl rfl), hframe⟩

/-- Settles O43: one subtraction, with VX and then VY as the minuend. -/
theorem subtractionsSetNotBorrow : Obligations.SubtractionsSetNotBorrow :=
  fun s x y => ⟨s.resultFlag_subTrunc x (s.getV x) (s.getV y), s.resultFlag_subTrunc x (s.getV y) (s.getV x)⟩

/-- Settles O44: the source that the parameter selects is the model's, and the flag is its lowest or highest bit. -/
theorem shiftsMoveTheBitOutIntoVF : Obligations.ShiftsMoveTheBitOutIntoVF := by
  intro s x y a ha
  obtain rfl : a = s.shiftSource x y := ha
  exact ⟨s.resultFlag_toNat x (toNat_shiftRight_one _) (toNat_lsbFlag _),
    s.resultFlag_toNat x (toNat_shiftLeft_one _) (toNat_msbFlag _)⟩

/-- Settles O45: the result is written after the draw is counted, and no property of the draw is used. -/
theorem randomIsTheDrawMasked : Obligations.RandomIsTheDrawMasked := by
  intro s x nn
  obtain ⟨t, ht, hx, hother, hframe⟩ := s.countDraw.result_spec x (Config.randByte s.draws &&& nn)
  exact ⟨t, ht, fun b _ => by rw [hx, BitVec.getLsbD_and], hother, hframe⟩

end Sys2Proof.Machine
end

section
/-! SUPPORT. The skips: each completes in every state and writes PC alone, so an instruction adds only its condition (R180
to R184). -/

namespace Sys2Proof.Machine

theorem raisedBy_of_isSkip {i : Instr} (hi : i.isSkip) (s : State) : raisedBy i s = none := by
  obtain ⟨x, nn, rfl | rfl⟩ | ⟨x, y, rfl | rfl⟩ | ⟨x, rfl | rfl⟩ := hi <;> rfl

/-- A skip completes in every state, and its condition decides the new PC, all that it writes (R28, R184). -/
theorem exec_of_isSkip {i : Instr} {s : State} {p : Prop} [Decidable p] (hi : i.isSkip)
    (hp : Claims.SkipHolds i s ↔ p) :
    exec i s = .next { s with pc := if p then s.pc + 4#16 else s.pc + 2#16 } := by
  obtain ⟨c, hc, hiff⟩ := completed_of_isSkip hi s
  calc exec i s = .next (completed i s) := exec_of_completes (raisedBy_of_isSkip hi s)
    _ = .next (s.setPC (if c then s.pc + 4#16 else s.pc + 2#16)) := congrArg _ hc
    _ = .next (s.setPC (if p then s.pc + 4#16 else s.pc + 2#16)) := by rw [if_congr (hiff.trans hp) rfl rfl]

/-- Settles O46: the four instructions are skips, each with its own condition. -/
theorem conditionalSkips : Obligations.ConditionalSkips := fun s x y nn =>
  ⟨exec_of_isSkip (.inl ⟨x, nn, .inl rfl⟩) (skipHolds_seVxNn s x nn),
    exec_of_isSkip (.inl ⟨x, nn, .inr rfl⟩) (skipHolds_sneVxNn s x nn),
    exec_of_isSkip (.inr (.inl ⟨x, y, .inl rfl⟩)) (skipHolds_seVxVy s x y),
    exec_of_isSkip (.inr (.inl ⟨x, y, .inr rfl⟩)) (skipHolds_sneVxVy s x y)⟩

end Sys2Proof.Machine
end

section
/-! SUPPORT. The index register and memory (R190 to R196): what a group store leaves in memory and a group load in the
registers, how far I moves, and the state after each instruction whose update a parameter switches. -/

namespace Sys2Proof.Machine

section Groups
variable {s : State}

/-! ## A group of bytes stored at I -/

/-- Byte `k` of a group is stored at `I + k` (R62, R193). -/
theorem State.read_storeAtI_add (hm : Memory.wf s.mem) {bs : List Byte} {k : Nat} (hk : k < bs.length) :
    Memory.read (s.storeAtI bs).mem (s.i.toNat + k) = bs.getD k 0#8 := by
  rw [State.storeAtI_mem, Memory.read_writeBytes _ _ _ hm.1, if_pos (by omega), Nat.add_sub_cancel_left]

/-- A group store leaves every byte outside its range alone (R52, R193). -/
theorem State.read_storeAtI_outside (hm : Memory.wf s.mem) {bs : List Byte} {a : Nat}
    (ha : ¬(s.i.toNat ≤ a ∧ a < s.i.toNat + bs.length)) :
    Memory.read (s.storeAtI bs).mem a = Memory.read s.mem a := by
  rw [State.storeAtI_mem, Memory.read_writeBytes _ _ _ hm.1, if_neg ha]

/-- The stored digits are the decimal digits as numbers: none is truncated (R194). -/
theorem toNat_getD_bcdDigits (b : Byte) :
    ((bcdDigits b).getD 0 0#8).toNat = b.toNat / 100 ∧ ((bcdDigits b).getD 1 0#8).toNat = b.toNat / 10 % 10 ∧
      ((bcdDigits b).getD 2 0#8).toNat = b.toNat % 10 := by
  have hb := b.isLt
  simp only [bcdDigits, List.getD_cons_zero, List.getD_cons_succ, BitVec.toNat_ofNat]
  omega

/-! ## A group of registers loaded from I -/

/-- A group of bytes written from V0 on lands in the registers of its range alone. -/
theorem State.getV_setRegs_writeRegs (bs : List Byte) (z : Nibble) :
    (s.setRegs (writeRegs s.v 0 bs)).getV z = if z.toNat < bs.length then bs.getD z.toNat 0#8 else s.getV z := by
  simp [State.getV, State.setRegs, getElem_writeRegs]

/-! ## The move of I -/

/-- I moves by X + 1 under LOADSTORE_INCREMENTS_I, and no move inside memory is truncated (R195, R196). -/
theorem State.toNat_bumpIndex_i {x : Nibble} (h : s.i.toNat + x.toNat ≤ 0xFFF) : (s.bumpIndex x).i.toNat =
    s.i.toNat + (if s.params.loadStoreIncrementsI = true then x.toNat + 1 else 0) := by
  rw [State.bumpIndex_i]
  split
  · rw [BitVec.toNat_ofNat, Nat.mod_eq_of_lt (by omega), Nat.add_assoc]
  · rfl

theorem State.bumpIndex_eq_setI (x : Nibble) : s.bumpIndex x = s.setI (s.bumpIndex x).i := by
  unfold State.bumpIndex
  split <;> rfl

end Groups

section Instructions
variable (s : State) (x : Nibble)

/-! ## FX1E -/

/-- VF, and under ADD_INDEX_SETS_VF alone, tells whether the integer sum lies above 0x0FFF (R191). -/
theorem getV_completed_addIVx (z : Nibble) : (completed (.addIVx x) s).getV z =
    if s.params.addIndexSetsVF = true ∧ z = 0xF#4 then
      (if s.i.toNat + (s.getV x).toNat > 0x0FFF then 1#8 else 0#8)
    else s.getV z :=
  (State.getV_indexFlag _ z _).trans (if_congr Iff.rfl (if_congr decide_eq_true_iff rfl rfl) rfl)

/-- FX1E writes I, the registers and PC alone, under either value of ADD_INDEX_SETS_VF. -/
theorem completed_addIVx_frame : completed (.addIVx x) s =
    { s with i := (completed (.addIVx x) s).i, v := (completed (.addIVx x) s).v, pc := s.pc + 2#16 } := by
  simp only [completed, State.indexFlag]
  split <;> rfl

/-! ## FX55 and FX65 -/

/-- FX55 is a store and a write of I, under either value of LOADSTORE_INCREMENTS_I. -/
theorem completed_ldMiVx : completed (.ldMiVx x) s =
    ((s.storeAtI (s.regsUpTo x)).setI (s.bumpIndex x).i).advance := by
  rw [completed, State.bumpIndex_eq_setI, State.bumpIndex_i, State.bumpIndex_i]
  rfl

/-- FX65 is a load and a write of I, under either value of LOADSTORE_INCREMENTS_I. -/
theorem completed_ldVxMi : completed (.ldVxMi x) s =
    ((s.setRegs (writeRegs s.v 0 (s.loadAtI (x.toNat + 1)))).setI (s.bumpIndex x).i).advance := by
  rw [completed, State.bumpIndex_eq_setI, State.bumpIndex_i, State.bumpIndex_i]
  rfl

/-- Register `k` up to X is loaded with the byte at `I + k`; the others keep their values (R196). -/
theorem State.getV_setRegs_loadAtI (k : Nibble) :
    (s.setRegs (writeRegs s.v 0 (s.loadAtI (x.toNat + 1)))).getV k =
      if k.toNat ≤ x.toNat then Memory.read s.mem (s.i.toNat + k.toNat) else s.getV k := by
  rw [State.getV_setRegs_writeRegs, State.loadAtI, Memory.length_readBytes]
  by_cases hk : k.toNat ≤ x.toNat
  · rw [if_pos hk, if_pos (Nat.lt_succ_of_le hk), Memory.getD_readBytes _ _ _ _ (Nat.lt_succ_of_le hk)]
  · rw [if_neg hk, if_neg (fun h => hk (Nat.le_of_lt_succ h))]

end Instructions

/-! ## The statements -/

/-- Settles O51: NNN is zero-extended, and the glyph address is that of the low nibble as a number. -/
theorem indexLoads : Obligations.IndexLoads := by
  intro s nnn x
  constructor
  · rw [← zext16_eq_ofNat]
    rfl
  · rw [← State.toNat_lowNibble]
    rfl

/-- Settles O52: the flag is that of the integer sum, and I is the sum modulo 2^16. -/
theorem addToIndexSetsOverflow : Obligations.AddToIndexSetsOverflow := by
  intro s x
  refine ⟨completed (.addIVx x) s, exec_of_completes rfl, ?_, fun hp => ?_, fun hp => ?_, fun z hz => ?_,
    completed_addIVx_frame s x⟩
  · simp [completed]
  all_goals rw [getV_completed_addIVx]
  · rw [if_pos ⟨hp, rfl⟩]
  · rw [if_neg (by simp [hp])]
  · rw [if_neg (by simp [hz])]

/-- Settles O53: the three digits are the group stored at I. -/
theorem bcdStoresThreeDigits : Obligations.BcdStoresThreeDigits := by
  refine fun s x hm => ⟨fun h => exec_of_raised (if_pos h), fun h => ?_⟩
  have hdigit (k : Nat) (hk : k < 3) : Memory.read (completed (.ldBVx x) s).mem (s.i.toNat + k) =
      (bcdDigits (s.getV x)).getD k 0#8 := State.read_storeAtI_add hm hk
  obtain ⟨hundreds, tens, ones⟩ := toNat_getD_bcdDigits (s.getV x)
  exact ⟨completed (.ldBVx x) s, exec_of_completes (if_neg (Nat.not_lt.mpr h)),
    (congrArg BitVec.toNat (hdigit 0 (by decide))).trans hundreds,
    (congrArg BitVec.toNat (hdigit 1 (by decide))).trans tens,
    (congrArg BitVec.toNat (hdigit 2 (by decide))).trans ones,
    fun a ha => State.read_storeAtI_outside hm fun ⟨hlo, hhi⟩ => ha ⟨hlo, Nat.le_of_lt_succ hhi⟩, rfl⟩

/-- Settles O54: the registers are the group stored at I, and I moves last. -/
theorem storeRegistersAtI : Obligations.StoreRegistersAtI := by
  refine fun s x hm => ⟨fun h => exec_of_raised (if_pos h), fun h => ?_⟩
  have hx : exec (.ldMiVx x) s = .next (completed (.ldMiVx x) s) := exec_of_completes (if_neg (Nat.not_lt.mpr h))
  rw [completed_ldMiVx] at hx
  refine ⟨_, hx, fun k hk => ?_, fun a ha => State.read_storeAtI_outside hm ?_, State.toNat_bumpIndex_i h, rfl⟩
  · rw [← completed_ldMiVx]
    exact read_completed_ldMiVx k hm hk
  · rw [State.length_regsUpTo]
    omega

/-- Settles O55: the registers are the group loaded from I, and I moves last. -/
theorem loadRegistersFromI : Obligations.LoadRegistersFromI := by
  refine fun s x => ⟨fun h => exec_of_raised (if_pos h), fun h => ?_⟩
  have hx : exec (.ldVxMi x) s = .next (completed (.ldVxMi x) s) := exec_of_completes (if_neg (Nat.not_lt.mpr h))
  rw [completed_ldVxMi] at hx
  have hload := State.getV_setRegs_loadAtI s x
  exact ⟨_, hx, fun k hk => (hload k).trans (if_pos hk), fun k hk => (hload k).trans (if_neg (Nat.not_le.mpr hk)),
    State.toNat_bumpIndex_i h, rfl⟩

end Sys2Proof.Machine
end

section
/-! SUPPORT. The timers and the keys (R210 to R220): the key that a register selects, the least pressed key by its nibble,
what FX0A does with it, and a timer's tick as a number. -/

namespace Sys2Proof.Machine

section Keys
variable (s : State) (x : Nibble)

/-- The key of a register is the one its value modulo 16 names: the high nibble is ignored (R213, R214). -/
theorem State.keyPressed_lowNibble : s.keyPressed (s.lowNibble x) =
    s.key[(s.getV x).toNat % 16]'(Nat.mod_lt _ (Nat.zero_lt_succ 15)) := by
  simp only [State.keyPressed, State.toNat_lowNibble]

/-- The least pressed key is pressed, and every key below it is released (R215). -/
theorem leastKey_eq_some_iff_keyPressed (k : Nibble) : s.leastKey = some k.toNat ↔
    s.keyPressed k = true ∧ ∀ j : Nibble, j.toNat < k.toNat → s.keyPressed j = false := by
  rw [State.leastKey_eq_some]
  constructor
  · rintro ⟨_, hk, hleast⟩
    exact ⟨hk, fun j hj => hleast j.toNat hj⟩
  · rintro ⟨hk, hleast⟩
    exact ⟨k.isLt, hk, fun j hj => hleast (BitVec.ofNatLT j (hj.trans k.isLt)) hj⟩

/-- With a key pressed FX0A is a load of a register, with no flag (R215). -/
theorem exec_ldVxK_of_leastKey {k : Nat} (h : s.leastKey = some k) :
    exec (.ldVxK x) s = s.result x (BitVec.ofNat 8 k) := by
  rw [exec_of_completes rfl, completed, h]
  rfl

end Keys

/-! ## The tick -/

/-- Subtraction of numbers already holds at zero, as a tick does (R220). -/
theorem toNat_tickByte (b : Byte) : (tickByte b).toNat = b.toNat - 1 := by
  unfold tickByte
  split
  case isTrue hpos => exact BitVec.toNat_sub_of_le (BitVec.le_def.mpr hpos)
  case isFalse hzero => omega

/-! ## The statements -/

/-- Settles O47: both are skips, and the key of the low nibble is their condition. -/
theorem keySkips : Obligations.KeySkips := by
  intro s x
  have hskp := exec_of_isSkip (.inr (.inr ⟨x, .inl rfl⟩)) (skipHolds_skp s x)
  have hsknp := exec_of_isSkip (.inr (.inr ⟨x, .inr rfl⟩)) (skipHolds_sknp s x)
  rw [State.keyPressed_lowNibble] at hskp hsknp
  constructor
  · intro hpressed
    exact ⟨by rw [hskp, if_pos hpressed], by rw [hsknp, if_neg (by simp [hpressed])]⟩
  · intro hreleased
    exact ⟨by rw [hskp, if_neg (by simp [hreleased])], by rw [hsknp, if_pos hreleased]⟩

/-- Settles O48: the least pressed key is loaded into VX, where no key number is truncated; without one FX0A waits. -/
theorem keyWaitTakesTheLeastKey : Obligations.KeyWaitTakesTheLeastKey := by
  intro s x
  constructor
  · intro k hk hleast
    have hkey : s.leastKey = some k.toNat := (leastKey_eq_some_iff_keyPressed s k).mpr ⟨hk, hleast⟩
    have hbyte : k.toNat < 2 ^ 8 := k.isLt.trans (by decide)
    obtain ⟨t, ht, hx, hframe⟩ := s.result_onlyRegister x (BitVec.ofNat 8 k.toNat)
    exact ⟨t, (exec_ldVxK_of_leastKey s x hkey).trans ht, by rw [hx, BitVec.toNat_ofNat, Nat.mod_eq_of_lt hbyte],
      hframe⟩
  · intro hnone
    rw [exec_of_completes rfl, completed_of_waits ⟨x, rfl, hnone⟩]

/-- Settles O49: reading DT is a result with no flag; the two writes set one timer and advance PC. -/
theorem timerInstructions : Obligations.TimerInstructions :=
  fun s x => ⟨s.result_onlyRegister x s.dt, exec_of_completes rfl, exec_of_completes rfl⟩

/-- Settles O50: each timer ticks by its own value, and a tick writes the two timers alone. -/
theorem tickHoldsAtZero : Obligations.TickHoldsAtZero :=
  fun s => ⟨toNat_tickByte s.dt, toNat_tickByte s.st, rfl⟩

end Sys2Proof.Machine
end

section
/-! SUPPORT. What a step answers, said once: a faulted machine stays, and any other raises exactly the error of the table
R231 or goes on with no error. Precision of errors (R233) and the latch (R235, R239) follow from it. -/

namespace Sys2Proof.Machine

/-! ## The expected error, one branch at a time -/

section Branches
variable {s : State}

theorem expectedError_of_fetch_fails (hr : s.fetchInRange = false) :
    expectedError s = some ⟨.memoryOutOfBounds, s.pc, 0x0000#16⟩ :=
  if_pos (Nat.lt_of_not_le (of_decide_eq_false hr))

theorem expectedError_of_op {i : Instr} (hr : s.fetchInRange = true) (hd : decode s.fetchWord = .op i) :
    expectedError s = (raisedBy i s).map fun k => ⟨k, s.pc, s.fetchWord⟩ := by
  rw [expectedError, if_neg (Nat.not_lt.mpr ((State.fetchInRange_iff s).mp hr)), hd]

theorem expectedError_of_unknown {w : Word} (hr : s.fetchInRange = true) (hd : decode s.fetchWord = .unknown w) :
    expectedError s = if s.params.unknownOpcodePolicy = .halt then some ⟨.decodeError, s.pc, s.fetchWord⟩ else none := by
  rw [expectedError, if_neg (Nat.not_lt.mpr ((State.fetchInRange_iff s).mp hr)), hd]

end Branches

/-! ## A step on a machine that is not faulted -/

/-- No completed instruction touches the latch (R233). -/
@[simp] theorem completed_fault (i : Instr) (s : State) : (completed i s).fault = s.fault := by
  cases i with
  | ldVxK x => exact completed_ldVxK_frame State.fault fun _ => rfl
  | _ => simp [completed]

/-- A step on a machine that is not faulted writes the error of the table into the latch and nothing else, or, where the
table has none, answers a state with no error (R231 to R233, R237). -/
theorem step_of_not_faulted {s : State} (hf : s.fault = none) :
    (∃ r, expectedError s = some r ∧ r.pc = s.pc ∧ step s = .next (s.setFault (some r))) ∨
    (expectedError s = none ∧ ∃ t, t.fault = none ∧ step s = .next t) := by
  cases hr : s.fetchInRange with
  | false => exact .inl ⟨_, expectedError_of_fetch_fails hr, rfl, step_of_fetch_fails hf hr⟩
  | true =>
    cases hd : decode s.fetchWord with
    | op i =>
      have hexp := expectedError_of_op hr hd
      have hstep := step_of_op hf hr hd
      cases hk : raisedBy i s with
      | some k =>
        have hword : encode i = s.fetchWord := (encodeOfDecode _ _ hd).2
        rw [hk] at hexp
        rw [exec_of_raised hk, hword] at hstep
        exact .inl ⟨_, hexp, rfl, hstep⟩
      | none =>
        rw [hk] at hexp
        exact .inr ⟨hexp, _, (completed_fault i s).trans hf, hstep.trans (exec_of_completes hk)⟩
    | unknown w =>
      obtain ⟨rfl, -⟩ := decode_eq_unknown_iff.mp hd
      have hexp := expectedError_of_unknown hr hd
      have hstep := step_of_unknown hf hr hd
      cases hp : s.params.unknownOpcodePolicy with
      | halt => exact .inl ⟨_, hexp.trans (if_pos hp), rfl, hstep.trans (unknownWord_of_halt hp)⟩
      | skip => exact .inr ⟨hexp.trans (if_neg (by simp [hp])), s.advance, hf, hstep.trans (unknownWord_of_skip hp)⟩

/-- The latch after a step on a machine that is not faulted is the error of the table (R231). -/
theorem step_fault_eq_expectedError {s t : State} (hf : s.fault = none) (h : step s = .next t) :
    t.fault = expectedError s := by
  obtain ⟨r, hexp, -, hstep⟩ | ⟨hexp, t', ht', hstep⟩ := step_of_not_faulted hf
  · obtain rfl := Host.Outcome.next.inj (hstep.symm.trans h)
    exact hexp.symm
  · obtain rfl := Host.Outcome.next.inj (hstep.symm.trans h)
    exact ht'.trans hexp.symm

/-- A step that sets the latch to `r` writes nothing else, and `r` names the instruction at PC (R233). -/
theorem step_eq_setFault {s t : State} {r : ErrorRecord} (hf : s.fault = none) (h : step s = .next t)
    (hr : t.fault = some r) : t = s.setFault (some r) ∧ r.pc = s.pc := by
  have hexp : expectedError s = some r := (step_fault_eq_expectedError hf h).symm.trans hr
  obtain ⟨r', hexp', hpc, hstep⟩ | ⟨hnone, -⟩ := step_of_not_faulted hf
  · obtain rfl := Option.some.inj (hexp'.symm.trans hexp)
    exact ⟨Host.Outcome.next.inj (h.symm.trans hstep), hpc⟩
  · exact absurd (hnone.symm.trans hexp) (by simp)

theorem stepResult_of_fault {t : State} {r : ErrorRecord} (hr : t.fault = some r) : stepResult t = .err r := by
  rw [stepResult, hr]

/-! ## The statements -/

/-- Settles O8: the word fetched is the unknown one, and the policy says what becomes of it. -/
theorem unknownWordPolicy : Obligations.UnknownWordPolicy := by
  intro s u hf hpc hd
  have hstep := step_of_unknown hf ((State.fetchInRange_iff s).mpr hpc) hd
  obtain ⟨rfl, -⟩ := decode_eq_unknown_iff.mp hd
  exact ⟨fun hp => hstep.trans (unknownWord_of_halt hp), fun hp => hstep.trans (unknownWord_of_skip hp)⟩

/-- Settles O10: a faulted machine stays, and any other raises an error or goes on. -/
theorem stepAlwaysAnswers : Obligations.StepAlwaysAnswers := by
  intro s
  cases hf : s.fault with
  | some r => exact ⟨s, step_of_fault hf⟩
  | none =>
    obtain ⟨r, -, -, hstep⟩ | ⟨-, t, -, hstep⟩ := step_of_not_faulted hf
    · exact ⟨_, hstep⟩
    · exact ⟨t, hstep⟩

/-- Settles O11: the latch after a step is the table's error; the codes are those of R230 by definition. -/
theorem stepRaisesExactlyTheTable : Obligations.StepRaisesExactlyTheTable :=
  ⟨fun _ _ hf h => step_fault_eq_expectedError hf h, rfl, rfl, rfl, rfl⟩

/-- Settles O12: a step that raises writes the latch alone, and its result is read from the latch. -/
theorem errorsArePrecise : Obligations.ErrorsArePrecise := by
  intro s t r hf h hr
  obtain ⟨ht, hpc⟩ := step_eq_setFault hf h hr
  exact ⟨ht, hpc, stepResult_of_fault hr⟩

/-- Settles O17: a latch that was set stays with its PC, and a new one names the PC it leaves in place. -/
theorem stepKeepsLatchAtPC : Obligations.StepKeepsLatchAtPC := by
  intro s t hs h r hr
  cases hf : s.fault with
  | some r' =>
    obtain rfl := Host.Outcome.next.inj ((step_of_fault hf).symm.trans h)
    exact hs r hr
  | none =>
    obtain ⟨rfl, hpc⟩ := step_eq_setFault hf h hr
    exact hpc

end Sys2Proof.Machine
end

section
/-! SUPPORT. The host's operations (R246 to R252, R264): what each keeps of the invariants and of the latch, any
interleaving of them, the snapshot and the key changes. -/

namespace Sys2Proof.Machine

/-! ## The latch -/

/-- No operation of the host clears or replaces the latch (R235, R240). -/
theorem hostOp_keeps_fault {o : HostOp} {h g : Session} {r : ErrorRecord} (hf : h.machine.fault = some r)
    (e : hostOp o h = .next g) : g.machine.fault = some r := by
  obtain ⟨_, -, -, -, rfl⟩ | ⟨t, -, ht, rfl⟩ | ⟨-, rfl⟩ | ⟨_, _, -, -, rfl⟩ | ⟨-, rfl⟩ := hostOp_cases e
  case inr.inl =>
    obtain rfl := Host.Outcome.next.inj ((step_of_fault hf).symm.trans ht)
    exact hf
  all_goals exact hf

/-- Settles O9: a step on a faulted machine is the first test of R237, and no host operation writes a set latch. -/
theorem faultedMachineStays : Obligations.FaultedMachineStays :=
  fun _ _ hf => ⟨step_of_fault hf, stepResult_of_fault hf, fun _ _ _ e => hostOp_keeps_fault hf e⟩

/-! ## The invariants -/

/-- `load` writes inside memory: the font ends below 0x200, and a program of at most 3584 bytes ends at 0xFFF (R262,
R263). -/
theorem loadState_inv {s : State} {bytes : List Byte} (h : s.Inv) (hlen : bytes.length ≤ 3584) :
    (loadState bytes s).Inv := by
  obtain ⟨hp, hm, hstack⟩ := h
  have ⟨_, _, _, hbase, hfont⟩ := hp
  have hfits : s.params.fontBase + s.params.font.length ≤ memSize := by
    simp only [loadOffset, memSize] at hbase ⊢
    omega
  have hbytes : loadOffset + bytes.length ≤ memSize := by
    simp only [loadOffset, memSize]
    omega
  exact ⟨hp, Memory.wf_writeBytes bytes (Memory.wf_writeBytes s.params.font hm hfits) hbytes, hstack⟩

/-- Every operation of the host keeps the invariants: only `load` and a step write a field that they relate (R246). -/
theorem hostOp_keeps_invariants {o : HostOp} {h g : Session} (e : hostOp o h = .next g)
    (hi : h.machine.Inv ∧ h.machine.PcBound) : g.machine.Inv ∧ g.machine.PcBound := by
  obtain ⟨hinv, hpc⟩ := hi
  obtain ⟨bytes, -, -, hlen, rfl⟩ | ⟨t, -, ht, rfl⟩ | ⟨-, rfl⟩ | ⟨_, _, -, -, rfl⟩ | ⟨-, rfl⟩ := hostOp_cases e
  case inl => exact ⟨loadState_inv hinv hlen, (by decide : 0x200 ≤ 0x10FE), hpc.2⟩
  case inr.inl => exact ⟨stepKeepsInvariant _ _ hinv ht, stepKeepsPcBound _ _ hpc ht⟩
  all_goals exact ⟨hinv, hpc⟩

/-! ## Interleavings and sessions -/

theorem runHost_cons_eq_next {o : HostOp} {os : List HostOp} {h g : Session} :
    runHost (o :: os) h = .next g ↔ ∃ h', hostOp o h = .next h' ∧ runHost os h' = .next g := by
  rw [runHost]
  cases hostOp o h <;> simp

/-- What every operation keeps, every interleaving of operations keeps (R281). -/
theorem runHost_keeps_invariants {ops : List HostOp} {h g : Session} (e : runHost ops h = .next g)
    (hi : h.machine.Inv ∧ h.machine.PcBound) : g.machine.Inv ∧ g.machine.PcBound := by
  induction ops generalizing h with
  | nil =>
    obtain rfl := Host.Outcome.next.inj e
    exact hi
  | cons o os ih =>
    obtain ⟨h', ho, hos⟩ := runHost_cons_eq_next.mp e
    exact ih hos (hostOp_keeps_invariants ho hi)

/-- Construction answers only for parameters in their domains, with the reset state (R7, R260). -/
theorem State.construct_eq_next {p : Params} {t : State} :
    State.construct p = .next t ↔ p.wf ∧ t = State.resetWith p := by
  unfold State.construct
  split
  case isTrue hp => exact ⟨fun e => ⟨hp, (Host.Outcome.next.inj e).symm⟩, fun e => by rw [e.2]⟩
  case isFalse hp => exact ⟨(nomatch ·), fun e => absurd e.1 hp⟩

theorem Session.construct_eq_next {p : Params} {h : Session} :
    Session.construct p = .next h ↔ p.wf ∧ h = ⟨State.resetWith p, true⟩ := by
  simp only [Session.construct, Session.next_eq_next, State.construct_eq_next, and_assoc, exists_and_left,
    exists_eq_left]

/-- A session that is not refused is a construction, then `load` and the operations on the reset machine (R264, R266). -/
theorem runSession_eq_next {p : Params} {program : List Byte} {ops : List HostOp} {g : Session} :
    runSession p program ops = .next g ↔
      p.wf ∧ runHost (.load program :: ops) ⟨State.resetWith p, true⟩ = .next g := by
  have hrun : runSession p program ops = .next g ↔
      ∃ h, Session.construct p = .next h ∧ runHost (.load program :: ops) h = .next g := by
    rw [runSession]
    cases Session.construct p <;> simp
  simp only [hrun, Session.construct_eq_next, and_assoc, exists_and_left, exists_eq_left]

/-- Settles O18: by induction on the operations, each of which keeps both; a session runs them from a reset state. -/
theorem hostSessionsKeepInvariants : Obligations.HostSessionsKeepInvariants := by
  constructor
  · intro ops h g hinv hpc e
    exact runHost_keeps_invariants e ⟨hinv, hpc⟩
  · intro p program ops g e
    obtain ⟨hp, hrun⟩ := runSession_eq_next.mp e
    exact runHost_keeps_invariants hrun ⟨inv_resetWith hp, pcBound_resetWith p⟩

/-! ## The snapshot and the keys -/

section Grid
variable (p : Params) (fb : Framebuffer)

@[simp] theorem Framebuffer.length_grid : (Framebuffer.grid p fb).length = p.displayH := by
  simp [Framebuffer.grid]

theorem Framebuffer.length_of_mem_grid {row : List Bool} (h : row ∈ Framebuffer.grid p fb) :
    row.length = p.displayW := by
  obtain ⟨y, -, rfl⟩ := List.mem_map.mp h
  simp

/-- The snapshot is indexed by row, then by column (R35, R248). -/
theorem Framebuffer.getD_grid {x y : Nat} (hx : x < p.displayW) (hy : y < p.displayH) :
    ((Framebuffer.grid p fb).getD y []).getD x false = Framebuffer.lit fb ⟨x, y⟩ := by
  simp [Framebuffer.grid, hx, hy]

end Grid

/-- A key change sets its own key and leaves every other (R249). -/
theorem State.keyPressed_setKeys (s : State) (k j : Nibble) (b : Bool) :
    (s.setKeys (s.key.setIfInBounds k.toNat b)).keyPressed j = if k = j then b else s.keyPressed j := by
  have hkj : k.toNat = j.toNat ↔ k = j := BitVec.toNat_inj
  simp [State.keyPressed, State.setKeys, Vector.getElem_setIfInBounds, hkj]

theorem setKeyState_of_not_key {k : Nat} (hk : 16 ≤ k) (b : Bool) (s : State) :
    setKeyState k b s = .refused .noSuchKey :=
  if_neg (Nat.not_lt.mpr hk)

theorem setKeyState_of_key (k : Nibble) (b : Bool) (s : State) :
    setKeyState k.toNat b s = .next (s.setKeys (s.key.setIfInBounds k.toNat b)) :=
  setKeyState_eq_next.mpr ⟨k.isLt, rfl⟩

/-- The sound is on exactly while ST is not 0 (R250). -/
theorem soundActive_iff (s : State) : soundActive s = true ↔ s.st.toNat ≠ 0 := by
  simp [soundActive, ← BitVec.toNat_inj]

/-- Settles O59: the grid by its rows and cells, a key change by the keys it sets and leaves, and the two reads. -/
theorem hostReadsAndKeys : Obligations.HostReadsAndKeys := by
  intro s
  refine ⟨fun _ => ⟨rfl, rfl⟩, Framebuffer.length_grid _ _, fun _ => Framebuffer.length_of_mem_grid _ _,
    fun _ _ => Framebuffer.getD_grid _ _, fun _ b hk => setKeyState_of_not_key hk b s, fun k b => ?_, soundActive_iff s⟩
  refine ⟨_, setKeyState_of_key k b s, ?_, fun j hj => ?_, rfl⟩
  · rw [State.keyPressed_setKeys, if_pos rfl]
  · rw [State.keyPressed_setKeys, if_neg hj.symm]

end Sys2Proof.Machine
end

section
/-! SUPPORT. What `load` leaves in memory and when it is in order (R262 to R264). -/

namespace Sys2Proof.Machine

/-! ## The order of `load` -/

/-- What leaves `load` allowed found it allowed, and is neither a step nor a `load` (R264). -/
theorem hostOp_loadable {o : HostOp} {h g : Session} (e : hostOp o h = .next g) (hg : g.loadable = true) :
    h.loadable = true ∧ o ≠ .step ∧ ∀ program, o ≠ .load program := by
  obtain ⟨_, -, -, -, rfl⟩ | ⟨_, -, -, rfl⟩ | ⟨rfl, rfl⟩ | ⟨_, _, rfl, -, rfl⟩ | ⟨rfl | rfl, rfl⟩ := hostOp_cases e
  case inl | inr.inl => exact absurd hg Bool.false_ne_true
  all_goals exact ⟨hg, nofun, nofun⟩

theorem load_of_not_loadable {bytes : List Byte} {h : Session} (hl : h.loadable = false) :
    load bytes h = .refused .loadOutOfOrder :=
  if_neg (Bool.eq_false_iff.mp hl)

/-- In its order, a program that does not end inside memory is refused (R263). -/
theorem load_of_too_long {bytes : List Byte} {h : Session} (hl : h.loadable = true) (hlen : 3584 < bytes.length) :
    load bytes h = .refused .programTooLong := by
  have hfit : ¬bytes.length ≤ memSize - loadOffset := Nat.not_le.mpr hlen
  rw [load, if_pos hl, if_neg hfit]

/-! ## The bytes that `load` places -/

section Placed
variable {s : State} {bytes : List Byte}

/-- Every byte after `load`: the program's, which is written last, then the font's, then the byte as it was (R262). -/
theorem read_loadState (hm : Memory.wf s.mem) (a : Nat) :
    Memory.read (loadState bytes s).mem a =
      if 0x200 ≤ a ∧ a < 0x200 + bytes.length then bytes.getD (a - 0x200) 0#8
      else if s.params.fontBase ≤ a ∧ a < s.params.fontBase + s.params.font.length then
        s.params.font.getD (a - s.params.fontBase) 0#8
      else Memory.read s.mem a := by
  have hfont := Memory.sorted_writeBytes s.params.fontBase s.params.font hm.1
  rw [← Memory.read_writeBytes s.params.fontBase s.params.font a hm.1]
  exact Memory.read_writeBytes loadOffset bytes a hfont

theorem read_loadState_program (hm : Memory.wf s.mem) {k : Nat} (hk : k < bytes.length) :
    Memory.read (loadState bytes s).mem (0x200 + k) = bytes[k] := by
  rw [read_loadState hm, if_pos (by omega), Nat.add_sub_cancel_left, List.getD_eq_getElem _ _ hk]

/-- The program does not reach the font, which ends at 0x200 at the latest (R7, R61). -/
theorem read_loadState_font (hp : s.params.wf) (hm : Memory.wf s.mem) {k : Nat} (hk : k < s.params.font.length) :
    Memory.read (loadState bytes s).mem (s.params.fontBase + k) = s.params.font[k] := by
  obtain ⟨-, -, -, hbase, hlen⟩ := hp
  rw [loadOffset] at hbase
  rw [read_loadState hm, if_neg (by omega), if_pos (by omega), Nat.add_sub_cancel_left, List.getD_eq_getElem _ _ hk]

theorem read_loadState_outside (hp : s.params.wf) (hm : Memory.wf s.mem) {a : Nat}
    (hfont : ¬(s.params.fontBase ≤ a ∧ a < s.params.fontBase + 80))
    (hprogram : ¬(0x200 ≤ a ∧ a < 0x200 + bytes.length)) :
    Memory.read (loadState bytes s).mem a = Memory.read s.mem a := by
  obtain ⟨-, -, -, -, hlen⟩ := hp
  rw [read_loadState hm, if_neg hprogram, hlen, if_neg hfont]

end Placed

/-- Settles O58: construction and the operations by what each does to `loadable`, `load` by its three outcomes, and the
memory it leaves byte by byte. -/
theorem loadOncePlacesFontAndProgram : Obligations.LoadOncePlacesFontAndProgram := by
  refine ⟨fun _ _ e => (Session.construct_eq_next.mp e).2, fun _ _ _ => hostOp_loadable, fun h program =>
    ⟨rfl, load_of_not_loadable, load_of_too_long, fun hl hp hm hlen => ?_⟩⟩
  refine ⟨loadState program h.machine, load_eq_next.mpr ⟨hl, hlen, rfl⟩, rfl, ?_, ?_, ?_⟩
  · exact fun _ => read_loadState_font hp hm
  · exact fun _ => read_loadState_program hm
  · exact fun _ => read_loadState_outside hp hm

end Sys2Proof.Machine
end
